-- ==== Sys2Proof/Word.lean ====
section
/-! DEFINITION. The word and byte types of the block (00_scope.md R8): every value is unsigned. -/

namespace Sys2Proof

/-- A word, an unsigned 32-bit value: `Bits32` of 00_scope.md R8. -/
abbrev Word := BitVec 32

/-- A byte, an unsigned 8-bit value: `Bits8` of 00_scope.md R8. -/
abbrev Byte := BitVec 8

end Sys2Proof
end

