-- ==== Sys2Proof/Syntax.lean ====
section
/-! DEFINITION. The commands, one constructor per row of spec/opcode_table.json (30_encoding.md R82). -/

namespace Sys2Proof

/-- The six commands (30_encoding.md R82). None has an immediate field (30_encoding.md R81). -/
inductive Instr
  | nop
  | init
  | block
  | hash
  | keyload
  | hmac
  deriving DecidableEq, Repr

end Sys2Proof
end

