-- ==== Sys2Proof/WellFormed.lean ====
section
/-! DEFINITION. Which terms are well formed: the fields of a command word (30_encoding.md R80, R83) and the commands. -/

namespace Sys2Proof

/-- The two fields of a command word (30_encoding.md R80): RSV in bits 31:4, OP in bits 3:0. -/
structure CmdFields where
  rsv : BitVec 28
  op  : BitVec 4
  deriving DecidableEq, Repr

/-- The word with these fields: RSV above OP (30_encoding.md R80). -/
def CmdFields.word (f : CmdFields) : Word := f.rsv ++ f.op

/-- RSV must be 0 (30_encoding.md R80, R83). -/
def CmdFields.rsvClear (f : CmdFields) : Bool := f.rsv == 0#28

/-- OP must name a command: 0x6 to 0xF are reserved (30_encoding.md R82, R83). -/
def CmdFields.opNamed (f : CmdFields) : Bool := f.op.toNat < 6

/-- A command word is well formed when both checks pass (30_encoding.md R83). -/
def CmdFields.wellFormed (f : CmdFields) : Bool := f.rsvClear && f.opNamed

/-- A command has no operand fields (30_encoding.md R81), so every command is well formed. -/
def Instr.wellFormed : Instr → Bool
  | .nop => true
  | .init => true
  | .block => true
  | .hash => true
  | .keyload => true
  | .hmac => true

end Sys2Proof
end

