-- ==== Sys2Proof/Decode.lean ====
section
/-! DEFINITION. Decoding of a command word, total on all 2^32 words (30_encoding.md R84), and the encoder (R82). -/

namespace Sys2Proof

/-- Why a word is no command (30_encoding.md R83). Both lead to ILLEGAL_CMD. -/
inductive DecodeError
  | rsvNotZero
  | reservedOp
  deriving DecidableEq, Repr

/-- RSV, bits 31:4 of a command word (30_encoding.md R80). -/
def rsvField (c : Word) : BitVec 28 := c.extractLsb' 4 28

/-- OP, bits 3:0 of a command word (30_encoding.md R80). -/
def opField (c : Word) : BitVec 4 := c.extractLsb' 0 4

/-- The command an OP value names (30_encoding.md R82); 0x6 to 0xF are reserved. -/
def commandOfOp (op : BitVec 4) : Option Instr :=
  match op.toNat with
  | 0x0 => some .nop
  | 0x1 => some .init
  | 0x2 => some .block
  | 0x3 => some .hash
  | 0x4 => some .keyload
  | 0x5 => some .hmac
  | _ => none

/-- Decoding with the reason of a refusal (30_encoding.md R83, R84). A word with RSV not 0 is never the command its OP
names. -/
def decodeNamed (c : Word) : Except DecodeError Instr :=
  if rsvField c ≠ 0#28 then .error .rsvNotZero
  else match commandOfOp (opField c) with
    | some i => .ok i
    | none => .error .reservedOp

/-- `decode` of 30_encoding.md R84. -/
def decode (c : Word) : Option Instr :=
  match decodeNamed c with
  | .ok i => some i
  | .error _ => none

/-- The OP value of a command (30_encoding.md R82). -/
def opOfCommand : Instr → BitVec 4
  | .nop => 0x0#4
  | .init => 0x1#4
  | .block => 0x2#4
  | .hash => 0x3#4
  | .keyload => 0x4#4
  | .hmac => 0x5#4

/-- The word of a command: RSV = 0 above its OP (30_encoding.md R80, R82). -/
def encode (i : Instr) : Word := CmdFields.word { rsv := 0#28, op := opOfCommand i }

/-- The command word whose low `nbits` bits are those of `w` and whose other bits are 0. Every command is one 32-bit
word (30_encoding.md R80), moved whole (20_memory.md R67). -/
def tableWord (nbits w : Nat) : Word := BitVec.ofNat 32 (w % 2 ^ nbits)

/-- The command the decoder reads from an opcode-table word of `nbits` bits; a word with a bit above 31 is none. -/
def decodeTableWord (nbits w : Nat) : Option Instr :=
  if w % 2 ^ nbits < 2 ^ 32 then decode (tableWord nbits w) else none

end Sys2Proof
end

