-- ==== Sys2Proof/Config.lean ====
section
/-! DEFINITION. The implementation parameters (00_scope.md R7) and the free value of a draw (00_scope.md R12). -/

namespace Sys2Proof.Config

/-- LENGTH_FIELD_MODE, how the 8-byte bit-length field is formed (00_scope.md R7, 40_digest_datapath.md R120). -/
inductive LengthMode
  | full64
  | trunc32
  | reject
  deriving DecidableEq, Repr

/-- The parameters a model takes as arguments (00_scope.md R7). MEM_BYTES is held as MEM_LAST = MEM_BYTES - 1
(10_state.md R34), a 32-bit number, so that 1 <= MEM_BYTES <= 2^32 holds by construction. -/
structure Params where
  memLast    : Word
  lengthMode : LengthMode
  deriving DecidableEq, Repr

/-- MEM_BYTES, the size of MEM in bytes (20_memory.md R61). -/
abbrev Params.memBytes (p : Params) : Nat := p.memLast.toNat + 1

/-- The parameters of `State.reset`: LENGTH_FIELD_MODE = FULL64, the default of 00_scope.md R7, and MEM_BYTES = 256.
DESIGN CHOICE (log entry 1), unsafe for a statement about `State.reset` alone: the spec leaves MEM_BYTES open. -/
def Params.standard : Params := { memLast := 255#32, lengthMode := .full64 }

/-- `draw Bits32` (00_scope.md R12): the word of the n-th draw. It has no body: nothing constrains it (log entry 4). -/
opaque freeWord : Nat → Word

end Sys2Proof.Config
end

