-- ==== Sys2Proof/Machine/Datapath.lean ====
section
/-! DEFINITION. The Digest Engine's pure functions on words and blocks (40_digest_datapath.md R100 to R118). -/

namespace Sys2Proof.Machine

/-- Right rotation (40_digest_datapath.md R101), for 0 < n < 32; its value for another n, which no rule uses, is a
DESIGN CHOICE (log entry 15). -/
def rotr (x : Word) (n : Nat) : Word := (x >>> n) ||| (x <<< (32 - n))

/-- Logical right shift (40_digest_datapath.md R102). -/
def shr (x : Word) (n : Nat) : Word := x >>> n

/-- `σ0` (40_digest_datapath.md R103). -/
def smallSigma0 (x : Word) : Word := rotr x 7 ^^^ rotr x 18 ^^^ shr x 3

/-- `σ1` (40_digest_datapath.md R104). -/
def smallSigma1 (x : Word) : Word := rotr x 17 ^^^ rotr x 19 ^^^ shr x 10

/-- `Σ0` (40_digest_datapath.md R105). -/
def bigSigma0 (x : Word) : Word := rotr x 2 ^^^ rotr x 13 ^^^ rotr x 22

/-- `Σ1` (40_digest_datapath.md R106). -/
def bigSigma1 (x : Word) : Word := rotr x 6 ^^^ rotr x 11 ^^^ rotr x 25

/-- `Ch` (40_digest_datapath.md R107). -/
def choose (e f g : Word) : Word := (e &&& f) ^^^ (~~~e &&& g)

/-- `Maj` (40_digest_datapath.md R108). -/
def majority (a b c : Word) : Word := (a &&& b) ^^^ (a &&& c) ^^^ (b &&& c)

/-- `BE32`: the word whose most significant byte is the first (00_scope.md R11). -/
def be32 (b0 b1 b2 b3 : Byte) : Word := b0 ++ b1 ++ b2 ++ b3

/-- `bytesBE32` (00_scope.md R11). -/
def bytesBE32 (w : Word) : List Byte :=
  [w.extractLsb' 24 8, w.extractLsb' 16 8, w.extractLsb' 8 8, w.extractLsb' 0 8]

/-- `bytesBE` of eight words: the 32 digest bytes (00_scope.md R11, 40_digest_datapath.md R124). -/
def bytesBE (ws : Vector Word 8) : List Byte := ws.toList.flatMap bytesBE32

/-- Word j of a block: its big-endian bytes 4j to 4j+3 (40_digest_datapath.md R112). -/
def blockWord (B : Vector Byte 64) (j : Fin 16) : Word :=
  be32 B[4 * j.val] B[4 * j.val + 1] B[4 * j.val + 2] B[4 * j.val + 3]

/-- The block decode: W[0..15] are the words of the block, W[16..63] stay (40_digest_datapath.md R112). -/
def loadWords (W : Vector Word 64) (B : Vector Byte 64) : Vector Word 64 :=
  Vector.ofFn fun i => if h : i.val < 16 then blockWord B ⟨i.val, h⟩ else W[i]

/-- The expansion of entry t, for 16 <= t (40_digest_datapath.md R113). -/
def schedWord (W : Vector Word 64) (t : Fin 64) : Word :=
  W[t.val - 16] + smallSigma0 W[t.val - 15] + W[t.val - 7] + smallSigma1 W[t.val - 2]

/-- One step of the expansion: W[t] is written, the other entries stay (40_digest_datapath.md R113). -/
def schedStep (W : Vector Word 64) (t : Fin 64) : Vector Word 64 := W.set t (schedWord W t)

/-- The first n steps of the expansion, t = 16 to 16 + n - 1 (40_digest_datapath.md R113), for
n <= 48; its value for a larger n, which nothing uses, is a DESIGN CHOICE (log entry 15). -/
def expand (W : Vector Word 64) : Nat → Vector Word 64
  | 0 => W
  | n + 1 => schedStep (expand W n) (Fin.ofNat 64 (16 + n))

/-- `Schedule(B)` (40_digest_datapath.md R114). -/
def schedule (B : Vector Byte 64) : Vector Word 64 := expand (loadWords (Vector.replicate 64 0#32) B) 48

/-- `T1` of round t (40_digest_datapath.md R115). -/
def temp1 (t : Fin 64) (V : Vector Word 8) (w : Word) : Word :=
  V[7] + bigSigma1 V[4] + choose V[4] V[5] V[6] + K[t] + w

/-- `T2` (40_digest_datapath.md R116). -/
def temp2 (V : Vector Word 8) : Word := bigSigma0 V[0] + majority V[0] V[1] V[2]

/-- `RoundStep(t, V, w)`: every right-hand side reads the values from before the round (40_digest_datapath.md R117). -/
def roundStep (t : Fin 64) (V : Vector Word 8) (w : Word) : Vector Word 8 :=
  #v[temp1 t V w + temp2 V, V[0], V[1], V[2], V[3] + temp1 t V w, V[4], V[5], V[6]]

/-- The first n rounds, t = 0 to n - 1 (40_digest_datapath.md R118), for n <= 64; its value for a larger n,
which nothing uses, is a DESIGN CHOICE (log entry 15). -/
def rounds (W : Vector Word 64) (V : Vector Word 8) : Nat → Vector Word 8
  | 0 => V
  | n + 1 => roundStep (Fin.ofNat 64 n) (rounds W V n) W[Fin.ofNat 64 n]

/-- The add-back, lane by lane (40_digest_datapath.md R118, 41_engine_commands.md R157). -/
def addBack (H V : Vector Word 8) : Vector Word 8 := Vector.ofFn fun i => H[i] + V[i]

/-- `Compress(Hin, B)` (40_digest_datapath.md R118). -/
def compress (Hin : Vector Word 8) (B : Vector Byte 64) : Vector Word 8 :=
  addBack Hin (rounds (schedule B) Hin 64)

end Sys2Proof.Machine
end

