-- ==== Sys2Proof/Machine/Padding.lean ====
section
/-! DEFINITION. Padding and the digest as pure functions (40_digest_datapath.md R119 to R124). -/

namespace Sys2Proof.Machine

open Sys2Proof.Config

/-- `nblk(L)`: the blocks of the padded buffer of L bytes (40_digest_datapath.md R119). -/
def numBlocks (L : Nat) : Nat := (L + 8) / 64 + 1

/-- `PLEN(L)` (40_digest_datapath.md R119). -/
def paddedLen (L : Nat) : Nat := 64 * numBlocks L

/-- `Z(L)`, the number of zero bytes (40_digest_datapath.md R119). -/
def zeroCount (L : Nat) : Nat := paddedLen L - L - 9

/-- `bytesBE64(n)` (00_scope.md R11), defined there for n < 2^64 only. For a larger n, which no run reaches, these are the
bytes of n modulo 2^64: a DESIGN CHOICE (log entry 14), unsafe for a claim that rests on a length of 2^61 bytes or more. -/
def bytesBE64 (n : Nat) : List Byte :=
  bytesBE32 ((BitVec.ofNat 64 n).extractLsb' 32 32) ++ bytesBE32 ((BitVec.ofNat 64 n).extractLsb' 0 32)

/-- `LenField(L)` (40_digest_datapath.md R120): TRUNC32 keeps only the low 32 bits of the bit length. -/
def lenField (mode : LengthMode) (L : Nat) : List Byte :=
  match mode with
  | .full64 => bytesBE64 (8 * L)
  | .trunc32 => List.replicate 4 0#8 ++ bytesBE32 (BitVec.ofNat 32 (8 * L))
  | .reject => bytesBE64 (8 * L)

/-- `PadByte(L, j, src)` (40_digest_datapath.md R121). The byte source is asked only for bytes below L; it answers none
where a byte of MEM is unwritten (20_memory.md R64). Also none at and above `PLEN(L)`, where the rule
defines nothing: a DESIGN CHOICE (log entry 15). -/
def padByte (mode : LengthMode) (L j : Nat) (src : Nat → Option Byte) : Option Byte :=
  if j < L then src j
  else if j = L then some 0x80#8
  else if j < paddedLen L - 8 then some 0x00#8
  else (lenField mode L)[j - (paddedLen L - 8)]?

/-- `pad(m)` (40_digest_datapath.md R122). -/
def pad (mode : LengthMode) (m : List Byte) : List Byte :=
  m ++ [0x80#8] ++ List.replicate (zeroCount m.length) 0x00#8 ++ lenField mode m.length

/-- `block(m, i)`: bytes 64i to 64i + 63 of the padded buffer (40_digest_datapath.md R122), defined there for
i < nblk(len(m)) only. For a larger i, which no run and no digest uses, the block is 64 zero bytes: a DESIGN CHOICE (log
entry 15), unsafe for a claim that rests on such a block. -/
def padBlock (mode : LengthMode) (m : List Byte) (i : Nat) : Vector Byte 64 :=
  Vector.ofFn fun j => (pad mode m).getD (64 * i + j.val) 0#8

/-- The hash state after the first n blocks of pad(m) (40_digest_datapath.md R123), for n <= nblk(len(m)); a larger n goes on
with the zero blocks of `padBlock`, a DESIGN CHOICE (log entry 15). -/
def hashBlocks (mode : LengthMode) (m : List Byte) : Nat → Vector Word 8
  | 0 => IV
  | n + 1 => compress (hashBlocks mode m n) (padBlock mode m n)

/-- The eight words of `SHA256(m)` (40_digest_datapath.md R123). -/
def sha256Words (mode : LengthMode) (m : List Byte) : Vector Word 8 := hashBlocks mode m (numBlocks m.length)

/-- `SHA256(m)`, 32 bytes (40_digest_datapath.md R123, R124). -/
def sha256 (mode : LengthMode) (m : List Byte) : List Byte := bytesBE (sha256Words mode m)

end Sys2Proof.Machine
end

