-- ==== Sys2Proof/Machine/Composer.lean ====
section
/-! DEFINITION. The HMAC construction as pure functions (42_hmac_composer.md R190 to R193). -/

namespace Sys2Proof.Machine

open Sys2Proof.Config

/-- ipad, 0x36 (00_scope.md R6). -/
def ipad : Byte := 0x36#8

/-- opad, 0x5c (00_scope.md R6). -/
def opad : Byte := 0x5c#8

/-- `K0(key)`, 64 bytes: a key of more than 64 bytes is hashed first (42_hmac_composer.md R190). -/
def blockKey (mode : LengthMode) (key : List Byte) : List Byte :=
  if 64 < key.length then sha256 mode key ++ List.replicate 32 0x00#8
  else key ++ List.replicate (64 - key.length) 0x00#8

/-- `innerBuf(K0, m)` (42_hmac_composer.md R191). -/
def innerBuf (k0 m : List Byte) : List Byte := k0.map (· ^^^ ipad) ++ m

/-- `outerBuf(K0, d)` (42_hmac_composer.md R192). -/
def outerBuf (k0 d : List Byte) : List Byte := k0.map (· ^^^ opad) ++ d

/-- The inner digest of a block-sized key and a message (42_hmac_composer.md R193). -/
def innerDigest (mode : LengthMode) (k0 m : List Byte) : List Byte := sha256 mode (innerBuf k0 m)

/-- The eight words of the code of a block-sized key and a message (42_hmac_composer.md R193). -/
def hmacWordsOfK0 (mode : LengthMode) (k0 m : List Byte) : Vector Word 8 :=
  sha256Words mode (outerBuf k0 (innerDigest mode k0 m))

/-- `HMAC(key, m)`, 32 bytes (42_hmac_composer.md R193). -/
def hmac (mode : LengthMode) (key m : List Byte) : List Byte := bytesBE (hmacWordsOfK0 mode (blockKey mode key) m)

end Sys2Proof.Machine
end

