-- ==== Sys2Proof/Machine/State.lean ====
section
/-! DEFINITION. The state of the block (10_state.md R50), the reasons a step stops, and the state after reset (R49). -/

namespace Sys2Proof.Machine

open Sys2Proof.Config

/-- The invocation being run (10_state.md R41). -/
inductive Stage
  | block
  | hash
  | keyhash
  | inner
  | outer
  deriving DecidableEq, Repr

/-- The next internal step of the sequencer (10_state.md R41). -/
inductive Phase
  | load
  | sched
  | round
  | add
  deriving DecidableEq, Repr

/-- The error codes of STATUS.ERR that the block writes (60_exceptions.md R221). -/
inductive ErrCode
  | none
  | illegalCmd
  | noKey
  | range
  | length
  deriving DecidableEq, Repr

/-- One host access (00_scope.md R14): a register read or write of any width in bits at any offset (20_memory.md R68),
a MEM read or write (R62, R63), or reset (70_reset_and_hazards.md R250). -/
inductive HostAccess
  | regRead  (width off : Nat)
  | regWrite (width off : Nat) (v : Word)
  | memRead  (addr : Nat)
  | memWrite (addr : Nat) (v : Byte)
  | reset
  deriving DecidableEq, Repr

/-- One entry of the schedule: the step of one of the two agents (00_scope.md R14). -/
inductive Input
  | host (a : HostAccess)
  | sequencer
  deriving DecidableEq, Repr

/-- What a host read returned (00_scope.md R13 (d)): a register's word or a byte of MEM. -/
inductive ReadData
  | word (w : Word)
  | byte (b : Byte)
  deriving DecidableEq, Repr

/-- The fault kinds (60_exceptions.md R230). Each stands for something the spec gives no meaning to, so stopping is safe:
a true claim may become unprovable, no false one provable. -/
inductive Fault
  /-- Raised by a host register access of another width than 32, at an offset that is no multiple of 4 or above 0x3C
  (20_memory.md R68), and by a host MEM access at or above MEM_BYTES (R62, R63). Safe. -/
  | hostAccess
  /-- Raised by a host MEM write inside the running job's active range while BUSY = 1 (20_memory.md R62). Safe. -/
  | memWriteWhileBusy
  /-- Raised by LOAD, a short KEYLOAD and a host MEM read on a cell no one has written (20_memory.md R63, R64). Safe. -/
  | unwrittenRead
  deriving DecidableEq, Repr

/-- The refusals: only that of an instruction without a meaning. -/
inductive Refusal
  /-- Raised by an arm of `exec` whose instruction has no meaning yet; no arm raises it. Safe. -/
  | notModelled (mnemonic : String)
  deriving DecidableEq, Repr

/-- MEM (20_memory.md R61): the written cells with their bytes. An address that is not listed is unwritten. -/
abbrev Memory := List Host.Cell

/-- The canonical form of MEM: addresses strictly rising, so that equal memories are equal lists. -/
abbrev Memory.wf (m : Memory) : Prop := m.Pairwise (fun x y => x.1 < y.1)

/-- The state of the block and of the model (10_state.md R50). -/
structure State where
  /-- MEM_LAST and LENGTH_FIELD_MODE (10_state.md R33, R34): parameters, changed by no step. -/
  params    : Params
  /-- MSG_ADDR (10_state.md R28). -/
  msgAddr   : Word
  /-- MSG_LEN (10_state.md R29). -/
  msgLen    : Word
  /-- KEY_ADDR (10_state.md R30). -/
  keyAddr   : Word
  /-- KEY_LEN (10_state.md R31). -/
  keyLen    : Word
  /-- STATUS.BUSY (10_state.md R23). -/
  busy      : Bool
  /-- STATUS.DONE (10_state.md R24). -/
  done      : Bool
  /-- STATUS.KEY_VALID (10_state.md R25). -/
  keyValid  : Bool
  /-- STATUS.OVERRUN (10_state.md R26). -/
  overrun   : Bool
  /-- STATUS.ERR (10_state.md R27). -/
  err       : BitVec 4
  /-- The hash state H[0..7] (10_state.md R36). -/
  H         : Vector Word 8
  /-- The working registers a..h, `V[0] = a` to `V[7] = h` (10_state.md R37). -/
  V         : Vector Word 8
  /-- The message schedule W[0..63] (10_state.md R38). -/
  W         : Vector Word 64
  /-- The key buffer KBUF[0..63] (10_state.md R39). -/
  KBUF      : Vector Byte 64
  /-- The inner digest IDIG[0..7] (10_state.md R40). -/
  IDIG      : Vector Word 8
  /-- The command of the running job (10_state.md R41). -/
  op        : Instr
  /-- The invocation being run (10_state.md R41). -/
  stage     : Stage
  /-- The length in bytes of the unpadded buffer of the invocation (10_state.md R41). -/
  srcLen    : Nat
  /-- The number of 64-byte blocks of the invocation (10_state.md R41). -/
  nblk      : Nat
  /-- The index of the current block (10_state.md R41). -/
  blk       : Nat
  /-- The next internal step (10_state.md R41). -/
  phase     : Phase
  /-- The schedule or round index (10_state.md R41, R50). -/
  t         : Fin 64
  /-- LMSG_ADDR (10_state.md R42). -/
  lMsgAddr  : Nat
  /-- LMSG_LEN (10_state.md R42). -/
  lMsgLen   : Nat
  /-- LKEY_ADDR (10_state.md R42). -/
  lKeyAddr  : Nat
  /-- LKEY_LEN (10_state.md R42). -/
  lKeyLen   : Nat
  /-- MEM (10_state.md R47). -/
  mem       : Memory
  /-- The fault record (10_state.md R48). -/
  fault     : Option Fault
  /-- The model's own: the steps still to be taken, oldest first (log entry 2). -/
  inputs    : List Input
  /-- The model's own: what the last host read returned (log entry 5). -/
  readData  : Option ReadData
  /-- The model's own: how many draws were made (log entry 4). -/
  draws     : Nat
  deriving DecidableEq, Repr

/-- What one step of the machine ends in. -/
abbrev Result := Host.Outcome State Fault Refusal

/-- The state at power-on of a block with parameters `p` (70_reset_and_hazards.md R251): the values of 10_state.md R49,
every MEM cell unwritten, no fault recorded. V, W, IDIG, the sequencer registers and the latched operands are unspecified
there: 0 is a DESIGN CHOICE (log entry 3), unsafe for a claim that rests on it. -/
def State.powerOn (p : Params) : State where
  params := p
  msgAddr := 0#32
  msgLen := 0#32
  keyAddr := 0#32
  keyLen := 0#32
  busy := false
  done := false
  keyValid := false
  overrun := false
  err := 0#4
  H := IV
  V := Vector.replicate 8 0#32
  W := Vector.replicate 64 0#32
  KBUF := Vector.replicate 64 0#8
  IDIG := Vector.replicate 8 0#32
  op := .nop
  stage := .block
  srcLen := 0
  nblk := 0
  blk := 0
  phase := .load
  t := 0
  lMsgAddr := 0
  lMsgLen := 0
  lKeyAddr := 0
  lKeyLen := 0
  mem := []
  fault := none
  inputs := []
  readData := none
  draws := 0

/-- The machine right after reset at power-on, with the parameters of `Params.standard` (log entry 1). -/
def State.reset : State := State.powerOn Params.standard

end Sys2Proof.Machine
end

