-- ==== Sys2Proof/Machine/Flags.lean ====
section
/-! DEFINITION. STATUS and INFO as words, and every way STATUS fields change (10_state.md R22 to R27, R33). -/

namespace Sys2Proof.Machine

open Sys2Proof.Config

/-- The value of an error code (60_exceptions.md R221). -/
def ErrCode.code : ErrCode → BitVec 4
  | .none => 0x0#4
  | .illegalCmd => 0x1#4
  | .noKey => 0x2#4
  | .range => 0x3#4
  | .length => 0x4#4

/-- `reg(STATUS)` (10_state.md R22): BUSY bit 0, DONE bit 1, KEY_VALID bit 2, OVERRUN bit 3, ERR bits 7:4. -/
def statusWord (s : State) : Word :=
  (s.err.setWidth 32 <<< 4) ||| ((BitVec.ofBool s.overrun).setWidth 32 <<< 3)
    ||| ((BitVec.ofBool s.keyValid).setWidth 32 <<< 2) ||| ((BitVec.ofBool s.done).setWidth 32 <<< 1)
    ||| (BitVec.ofBool s.busy).setWidth 32

/-- INFO.LMODE (10_state.md R33). -/
def lmodeField : LengthMode → Word
  | .full64 => 0#32
  | .trunc32 => 1#32
  | .reject => 2#32

/-- `reg(INFO)` (10_state.md R33): LMODE in bits 1:0, VERSION = 0x01 in bits 15:8. -/
def infoWord (p : Params) : Word := (0x01#32 <<< 8) ||| lmodeField p.lengthMode

/-- OVERRUN takes the value `b` (10_state.md R26, 41_engine_commands.md R150). -/
def setOverrun (b : Bool) (s : State) : State := { s with overrun := b }

/-- `raise Reject(code)` (60_exceptions.md R222): ERR and DONE are written, nothing else. This is the one shared
operation for every rejection; the block has no trap (60_exceptions.md R232, R233). -/
def reject (c : ErrCode) (s : State) : State := { s with err := c.code, done := false }

/-- The end of a command that never sets BUSY: `done <- 1` (41_engine_commands.md R162, R163). -/
def setDone (s : State) : State := { s with done := true }

/-- `Complete()` (41_engine_commands.md R160). V, W, IDIG, op, stage, srcLen, nblk, blk, phase and t are unspecified from
here to the next job (10_state.md R38, R40, R41): that they keep their last values is a DESIGN CHOICE (log entry 13), unsafe
for a claim that rests on one of these values while BUSY = 0. -/
def complete (s : State) : State := { s with busy := false, done := true }

end Sys2Proof.Machine
end

