-- ==== Sys2Proof/Machine/Operands.lean ====
section
/-! DEFINITION. The operands of the commands, how they are latched, and the checks on them (30_encoding.md R81,
41_engine_commands.md R151, R152, 60_exceptions.md R224 to R227). -/

namespace Sys2Proof.Machine

open Sys2Proof.Config

/-- MEM_BYTES (20_memory.md R61). -/
def State.memBytes (s : State) : Nat := s.params.memBytes

/-- `Latch()`: all four operand registers, zero-extended, whatever the command (41_engine_commands.md R152). -/
def latch (s : State) : State :=
  { s with lMsgAddr := s.msgAddr.toNat, lMsgLen := s.msgLen.toNat,
           lKeyAddr := s.keyAddr.toNat, lKeyLen := s.keyLen.toNat }

/-- What every accepted command does before its own rule (41_engine_commands.md R151). -/
def accept (op : Instr) (s : State) : State := latch { s with err := ErrCode.none.code, done := false, op := op }

/-- The address and length the range check reads from the operand registers (60_exceptions.md R225); none for a command
that reads no MEM. BLOCK always reads 64 bytes. -/
def rangeOperand (op : Instr) (s : State) : Option (Nat × Nat) :=
  match op with
  | .nop => none
  | .init => none
  | .block => some (s.msgAddr.toNat, 64)
  | .hash => some (s.msgAddr.toNat, s.msgLen.toNat)
  | .keyload => some (s.keyAddr.toNat, s.keyLen.toNat)
  | .hmac => some (s.msgAddr.toNat, s.msgLen.toNat)

/-- RANGE: `A + L > MEM_BYTES`, exact, with no wrap-around (60_exceptions.md R225). -/
def rangeFails (op : Instr) (s : State) : Bool :=
  match rangeOperand op s with
  | some (a, l) => decide (s.memBytes < a + l)
  | none => false

/-- The length in bytes of the buffer whose bit length LENGTH checks (60_exceptions.md R226); none where it never
applies. HMAC's is the inner buffer. -/
def paddedOperand (op : Instr) (s : State) : Option Nat :=
  match op with
  | .nop => none
  | .init => none
  | .block => none
  | .hash => some s.msgLen.toNat
  | .keyload => if 64 < s.keyLen.toNat then some s.keyLen.toNat else none
  | .hmac => some (64 + s.msgLen.toNat)

/-- LENGTH: only in mode REJECT, when the bit length is 2^32 or more (60_exceptions.md R226). -/
def lengthFails (op : Instr) (s : State) : Bool :=
  match s.params.lengthMode, paddedOperand op s with
  | .reject, some l => decide (2 ^ 32 ≤ 8 * l)
  | _, _ => false

/-- NO_KEY: HMAC with no key loaded (60_exceptions.md R224). -/
def keyMissing (op : Instr) (s : State) : Bool := op == .hmac && !s.keyValid

/-- `Check` for a word that decodes to `op`: the first cause in the order of 60_exceptions.md R227, none to accept. -/
def check (op : Instr) (s : State) : Option ErrCode :=
  if keyMissing op s then some .noKey
  else if rangeFails op s then some .range
  else if lengthFails op s then some .length
  else none

end Sys2Proof.Machine
end

