-- ==== Sys2Proof/Machine/Ops.lean ====
section
/-! DEFINITION. The named operations over memory and registers (20_memory.md, 10_state.md R20), taking a command
(41_engine_commands.md R150, 60_exceptions.md R227) and reset (70_reset_and_hazards.md R250). -/

namespace Sys2Proof.Machine

open Sys2Proof.Config

/-- The byte of a cell, none while it is unwritten (20_memory.md R61). -/
def Memory.read (m : Memory) (addr : Nat) : Option Byte :=
  match m with
  | [] => none
  | (a, v) :: rest => if a = addr then some v else Memory.read rest addr

/-- A cell becomes written, in place in the rising order (20_memory.md R62). -/
def Memory.write (m : Memory) (addr : Nat) (v : Byte) : Memory :=
  match m with
  | [] => [(addr, v)]
  | (a, w) :: rest =>
    if addr < a then (addr, v) :: (a, w) :: rest
    else if addr = a then (addr, v) :: rest
    else (a, w) :: Memory.write rest addr v

/-- The bytes f 0 to f (n - 1), none if one of them is. -/
def gather {α : Type} (f : Nat → Option α) : (n : Nat) → Option (Vector α n)
  | 0 => some #v[]
  | n + 1 => (gather f n).bind fun v => (f n).map fun b => v.push b

/-- The 64 bytes f 0 to f 63 of a block or a key, none if one of them is: `gather64_eq_some_iff` and
`gather64_eq_none_iff` say all it does, so that no proof about a step need unroll it. -/
def gather64 (f : Nat → Option Byte) : Option (Vector Byte 64) := gather f 64

/-- `MemRead(addr, 1)` by the block (20_memory.md R64): none where it raises Fault(UNWRITTEN_READ). The
rule's addresses lie below MEM_BYTES; at and above it, where no run reads, the cell list is read as it stands: a DESIGN CHOICE
(log entry 15). -/
def blockRead (s : State) (addr : Nat) : Option Byte := s.mem.read addr

/-- `ActiveRange()`: the first address of the running job's byte range and the first after it (20_memory.md R62). NOP and
INIT run no job: the rule gives them no range, and the empty one is a DESIGN CHOICE for states that no run reaches (log
entry 15). -/
def activeRange (s : State) : Nat × Nat :=
  match s.op with
  | .nop => (0, 0)
  | .init => (0, 0)
  | .block => (s.lMsgAddr, s.lMsgAddr + 64)
  | .hash => (s.lMsgAddr, s.lMsgAddr + s.lMsgLen)
  | .keyload => (s.lKeyAddr, s.lKeyAddr + s.lKeyLen)
  | .hmac => (s.lMsgAddr, s.lMsgAddr + s.lMsgLen)

/-- Whether an address lies in the running job's active range (20_memory.md R62). -/
def inActiveRange (s : State) (addr : Nat) : Bool :=
  decide ((activeRange s).1 ≤ addr) && decide (addr < (activeRange s).2)

/-- Host write of MEM (20_memory.md R62). -/
def hostMemWrite (addr : Nat) (v : Byte) (s : State) : Result :=
  if s.memBytes ≤ addr then .fault .hostAccess
  else if s.busy && inActiveRange s addr then .fault .memWriteWhileBusy
  else .next { s with mem := s.mem.write addr v }

/-- What a host read returned is left on the model's read port; nothing else changes (20_memory.md R71). -/
def returnRead (d : ReadData) (s : State) : State := { s with readData := some d }

/-- Host read of MEM (20_memory.md R63). -/
def hostMemRead (addr : Nat) (s : State) : Result :=
  if s.memBytes ≤ addr then .fault .hostAccess
  else match s.mem.read addr with
    | some b => .next (returnRead (.byte b) s)
    | none => .fault .unwrittenRead

/-- `draw Bits32` returned by a read (00_scope.md R12, 10_state.md R35): the free value of this draw; the next draw is
another one (log entry 4). -/
def returnDraw (s : State) : State := { s with readData := some (.word (freeWord s.draws)), draws := s.draws + 1 }

/-- The word a read returns at an offset of the register window (10_state.md R20), for a read that is exact. CMD reads
as 0 (R21). None where no register is mapped. -/
def registerWord (s : State) (off : Nat) : Option Word :=
  match off with
  | 0x00 => some 0#32
  | 0x04 => some (statusWord s)
  | 0x08 => some s.msgAddr
  | 0x0C => some s.msgLen
  | 0x10 => some s.keyAddr
  | 0x14 => some s.keyLen
  | 0x18 => some (infoWord s.params)
  | 0x1C => some s.params.memLast
  | 0x20 => some s.H[0]
  | 0x24 => some s.H[1]
  | 0x28 => some s.H[2]
  | 0x2C => some s.H[3]
  | 0x30 => some s.H[4]
  | 0x34 => some s.H[5]
  | 0x38 => some s.H[6]
  | 0x3C => some s.H[7]
  | _ => none

/-- Whether an offset is that of one of DIGEST0 to DIGEST7 (10_state.md R20), for an offset that is mapped. -/
def isDigestOffset (off : Nat) : Bool := decide (0x20 ≤ off)

/-- Host read of a register (20_memory.md R68, 10_state.md R32): a DIGEST read is a draw while BUSY = 1 (R35). -/
def hostRegRead (width off : Nat) (s : State) : Result :=
  if width ≠ 32 then .fault .hostAccess
  else match registerWord s off with
    | none => .fault .hostAccess
    | some w => if s.busy && isDigestOffset off then .next (returnDraw s) else .next (returnRead (.word w) s)

/-- Host write of a register other than CMD (10_state.md R28 to R32): a read-only register ignores it, an operand
register takes it at once, also while busy. None where no register is mapped. -/
def writeRegister (off : Nat) (v : Word) (s : State) : Option State :=
  match off with
  | 0x08 => some { s with msgAddr := v }
  | 0x0C => some { s with msgLen := v }
  | 0x10 => some { s with keyAddr := v }
  | 0x14 => some { s with keyLen := v }
  | _ => (registerWord s off).map fun _ => s

/-- Reset (70_reset_and_hazards.md R250): every piece of state takes its value of 10_state.md R49; MEM and the fault
record are kept, the parameters are constants. The model's own fields go on. -/
def hostReset (s : State) : State :=
  { State.powerOn s.params with
    mem := s.mem, fault := s.fault, inputs := s.inputs, readData := s.readData, draws := s.draws }

/-- Taking a command word (41_engine_commands.md R150): dropped while BUSY = 1, with OVERRUN set; else OVERRUN is
cleared and `body` goes on. -/
def takeCommand (s : State) (body : State → Result) : Result :=
  if s.busy then .next (setOverrun true s) else body (setOverrun false s)

/-- A command word that decodes to `op` (41_engine_commands.md R150, R151, 60_exceptions.md R227): taken, checked, and
rejected, or accepted and its own rule `body` run. -/
def command (op : Instr) (s : State) (body : State → Result) : Result :=
  takeCommand s fun s =>
    match check op s with
    | some c => .next (reject c s)
    | none => body (accept op s)

/-- A command word that decodes to none (60_exceptions.md R223, 30_encoding.md R83). -/
def illegalCommand (s : State) : Result := takeCommand s fun s => .next (reject .illegalCmd s)

end Sys2Proof.Machine
end

