-- ==== Sys2Proof/Machine/Sequencer.lean ====
section
/-! DEFINITION. The sequencer: invocations, the steps LOAD, SCHED, ROUND and ADD, and the stage ends
(41_engine_commands.md R153 to R161, 42_hmac_composer.md R195, R197). -/

namespace Sys2Proof.Machine

/-- `StartInvocation(s, L)` (41_engine_commands.md R153): every stage but BLOCK loads H with IV. -/
def startInvocation (st : Stage) (L : Nat) (s : State) : State :=
  { s with
    stage := st, srcLen := L, nblk := if st = .block then 1 else numBlocks L, blk := 0, phase := .load, busy := true,
    H := if st = .block then s.H else IV }

/-- Byte k of the unpadded buffer of the invocation in stage `st` (41_engine_commands.md R159): a byte of MEM, of KBUF
XORed with ipad or opad, or of the inner digest. The OUTER buffer has bytes for k < 96 only: none at and above 96, which no
run reaches, is a DESIGN CHOICE (log entry 15); LOAD then stops with UNWRITTEN_READ. -/
def sourceByte (s : State) (st : Stage) (k : Nat) : Option Byte :=
  match st with
  | .block => blockRead s (s.lMsgAddr + k)
  | .hash => blockRead s (s.lMsgAddr + k)
  | .keyhash => blockRead s (s.lKeyAddr + k)
  | .inner => if h : k < 64 then some (s.KBUF[k] ^^^ ipad) else blockRead s (s.lMsgAddr + (k - 64))
  | .outer => if h : k < 64 then some (s.KBUF[k] ^^^ opad) else (bytesBE s.IDIG)[k - 64]?

/-- `StreamByte(s, j)` (41_engine_commands.md R159): a raw byte for BLOCK, else byte j of the padded buffer.
For BLOCK the rule gives j < 64 only: that a larger j, which no run reaches, goes on reading MEM at LMSG_ADDR + j is a DESIGN
CHOICE (log entry 15). -/
def streamByte (s : State) (j : Nat) : Option Byte :=
  match s.stage with
  | .block => sourceByte s .block j
  | .hash => padByte s.params.lengthMode s.srcLen j (sourceByte s .hash)
  | .keyhash => padByte s.params.lengthMode s.srcLen j (sourceByte s .keyhash)
  | .inner => padByte s.params.lengthMode s.srcLen j (sourceByte s .inner)
  | .outer => padByte s.params.lengthMode s.srcLen j (sourceByte s .outer)

/-- The 64 bytes of the current block (41_engine_commands.md R154), none if one of them is unwritten. -/
def currentBlock (s : State) : Option (Vector Byte 64) := gather64 fun j => streamByte s (64 * s.blk + j)

/-- The effect of LOAD on a block that was read whole (41_engine_commands.md R154). -/
def loadBlock (B : Vector Byte 64) (s : State) : State :=
  { s with W := loadWords s.W B, V := s.H, phase := .sched, t := 16 }

/-- Internal step LOAD (41_engine_commands.md R154). -/
def stepLoad (s : State) : Result :=
  match currentBlock s with
  | some B => .next (loadBlock B s)
  | none => .fault .unwrittenRead

/-- Internal step SCHED (41_engine_commands.md R155). -/
def stepSched (s : State) : State :=
  if s.t.val = 63 then { s with W := schedStep s.W s.t, phase := .round, t := 0 }
  else { s with W := schedStep s.W s.t, t := s.t + 1 }

/-- Internal step ROUND (41_engine_commands.md R156). -/
def stepRound (s : State) : State :=
  if s.t.val = 63 then { s with V := roundStep s.t s.V s.W[s.t], phase := .add }
  else { s with V := roundStep s.t s.V s.W[s.t], t := s.t + 1 }

/-- KBUF from a key digest: its 32 bytes, then zeros (42_hmac_composer.md R195). -/
def keyOfDigest (Hn : Vector Word 8) : Vector Byte 64 :=
  Vector.ofFn fun j => if j.val < 32 then (bytesBE Hn).getD j.val 0x00#8 else 0x00#8

/-- Stage end of KEYHASH (42_hmac_composer.md R195). -/
def endKeyhash (Hn : Vector Word 8) (s : State) : State :=
  complete { s with KBUF := keyOfDigest Hn, keyValid := true }

/-- Stage end of INNER (42_hmac_composer.md R197): IDIG holds the inner digest and the OUTER stage starts. -/
def endInner (Hn : Vector Word 8) (s : State) : State := startInvocation .outer 96 { s with IDIG := Hn }

/-- `StageEnd(s, Hn)` (41_engine_commands.md R158). -/
def stageEnd (Hn : Vector Word 8) (s : State) : State :=
  match s.stage with
  | .block => complete s
  | .hash => complete s
  | .keyhash => endKeyhash Hn s
  | .inner => endInner Hn s
  | .outer => complete s

/-- Internal step ADD (41_engine_commands.md R157). -/
def stepAdd (s : State) : State :=
  if s.blk + 1 < s.nblk then { s with H := addBack s.H s.V, blk := s.blk + 1, phase := .load }
  else stageEnd (addBack s.H s.V) { s with H := addBack s.H s.V }

/-- The sequencer's turn (41_engine_commands.md R161): the step its phase names while BUSY = 1; while BUSY = 0 it has no
step, and its turn changes nothing (log entry 2). -/
def sequencerStep (s : State) : Result :=
  if s.busy then
    match s.phase with
    | .load => stepLoad s
    | .sched => .next (stepSched s)
    | .round => .next (stepRound s)
    | .add => .next (stepAdd s)
  else .next s

end Sys2Proof.Machine
end

