-- ==== Sys2Proof/Machine/Engine.lean ====
section
/-! DEFINITION. The Digest Engine's commands NOP, INIT, BLOCK and HASH (41_engine_commands.md R162 to R165). -/

namespace Sys2Proof.Machine

/-- NOP (41_engine_commands.md R162): completes at once. -/
def execNop (s : State) : Result := command .nop s fun s => .next (setDone s)

/-- INIT (41_engine_commands.md R163): H <- IV, completes at once. -/
def execInit (s : State) : Result := command .init s fun s => .next (setDone { s with H := IV })

/-- BLOCK (41_engine_commands.md R164): one raw block, no padding, H goes on from its value. -/
def execBlock (s : State) : Result := command .block s fun s => .next (startInvocation .block 64 s)

/-- HASH (41_engine_commands.md R165). -/
def execHash (s : State) : Result := command .hash s fun s => .next (startInvocation .hash s.lMsgLen s)

end Sys2Proof.Machine
end

