-- ==== Sys2Proof/Machine/Hmac.lean ====
section
/-! DEFINITION. The HMAC Composer's commands KEYLOAD and HMAC (42_hmac_composer.md R194, R196). -/

namespace Sys2Proof.Machine

/-- Byte j of K0 of a key of at most 64 bytes in MEM (42_hmac_composer.md R194): none where a key byte is unwritten. -/
def shortKeyByte (s : State) (j : Nat) : Option Byte :=
  if j < s.lKeyLen then blockRead s (s.lKeyAddr + j) else some 0x00#8

/-- KEYLOAD of a key of at most 64 bytes: completes in the accepting step (42_hmac_composer.md R194). -/
def loadShortKey (s : State) : Result :=
  match gather64 (shortKeyByte s) with
  | some k => .next (setDone { s with KBUF := k, keyValid := true })
  | none => .fault .unwrittenRead

/-- KEYLOAD (42_hmac_composer.md R194): the old key is void from accept; a longer key starts the KEYHASH stage. -/
def execKeyload (s : State) : Result :=
  command .keyload s fun s =>
    if s.lKeyLen ≤ 64 then loadShortKey { s with keyValid := false }
    else .next (startInvocation .keyhash s.lKeyLen { s with keyValid := false })

/-- HMAC (42_hmac_composer.md R196): starts the INNER stage; R197 starts OUTER. -/
def execHmac (s : State) : Result := command .hmac s fun s => .next (startInvocation .inner (64 + s.lMsgLen) s)

end Sys2Proof.Machine
end

