-- ==== Sys2Proof/Machine/Dispatch.lean ====
section
/-! DEFINITION. The meaning of each command: one arm per constructor of `Instr`. -/

namespace Sys2Proof.Machine

/-- The effect of a host write of the word of `i` to CMD (41_engine_commands.md R150). -/
def exec (i : Instr) (s : State) : Host.Outcome State Fault Refusal :=
  match i with
  | .nop => Sys2Proof.Machine.execNop s
  | .init => Sys2Proof.Machine.execInit s
  | .block => Sys2Proof.Machine.execBlock s
  | .hash => Sys2Proof.Machine.execHash s
  | .keyload => Sys2Proof.Machine.execKeyload s
  | .hmac => Sys2Proof.Machine.execHmac s

end Sys2Proof.Machine
end

