-- ==== Sys2Proof/Machine/HostPort.lean ====
section
/-! DEFINITION. The step of the host (00_scope.md R14) and the choice of the agent that steps (20_memory.md R72). -/

namespace Sys2Proof.Machine

/-- Host write of a word to CMD (41_engine_commands.md R150). -/
def hostWriteCmd (c : Word) (s : State) : Result :=
  match decode c with
  | some i => exec i s
  | none => illegalCommand s

/-- Host write of a register (20_memory.md R68): CMD at offset 0x00 takes a command (10_state.md R21). -/
def hostRegWrite (width off : Nat) (v : Word) (s : State) : Result :=
  if width ≠ 32 then .fault .hostAccess
  else if off = 0x00 then hostWriteCmd v s
  else match writeRegister off v s with
    | some s' => .next s'
    | none => .fault .hostAccess

/-- One host access, one atomic step (20_memory.md R71). -/
def hostStep (a : HostAccess) (s : State) : Result :=
  match a with
  | .regRead width off => hostRegRead width off s
  | .regWrite width off v => hostRegWrite width off v s
  | .memRead addr => hostMemRead addr s
  | .memWrite addr v => hostMemWrite addr v s
  | .reset => .next (hostReset s)

/-- The step of the agent whose turn is the oldest entry of the schedule, which is taken off it; with none left the
sequencer has its turn (log entry 2). -/
def agentStep (s : State) : Result :=
  match s.inputs with
  | [] => sequencerStep s
  | .host a :: rest => hostStep a { s with inputs := rest }
  | .sequencer :: rest => sequencerStep { s with inputs := rest }

/-- The schedule with a host write of a command word put before everything else. -/
def withCommandFirst (c : Word) (s : State) : State := { s with inputs := .host (.regWrite 32 0x00 c) :: s.inputs }

/-- The state a faulting step leaves: as it was before the step, marked faulted (60_exceptions.md R231). -/
def markFaulted (k : Fault) (s : State) : State := { s with fault := some k }

end Sys2Proof.Machine
end

