-- ==== Sys2Proof/Machine/Step.lean ====
section
/-! DEFINITION. One step of the machine (00_scope.md R13, 20_memory.md R72) and the placing of its next command. -/

namespace Sys2Proof.Machine

/-- One step: a faulted state has none, not even reset (60_exceptions.md R231); else the agent whose turn it is steps. -/
def step (s : State) : Host.Outcome State Fault Refusal :=
  match s.fault with
  | some k => .fault k
  | none => agentStep s

/-- The state with the command word of `nbits` bits `w` where `step` takes its next command: a host write to CMD first in
the schedule (log entry 7). -/
def State.withFetchWord (s : State) (nbits w : Nat) : State := withCommandFirst (tableWord nbits w) s

/-- The state after a step, a faulting one included: the next state, or the state before it, marked faulted
(60_exceptions.md R231, 10_state.md R48). -/
def advance (s : State) : State :=
  match step s with
  | .next s' => s'
  | .fault k => markFaulted k s
  | .refused _ => s

end Sys2Proof.Machine
end

