-- ==== Sys2Proof/Machine/HostNotation.lean ====
section
/-! DEFINITION. The host notation: register names, lines and pseudo-instructions as entries of the schedule
(30_encoding.md R86, R87). No step reads anything of this file: it writes host programs down. -/

namespace Sys2Proof.Machine

/-- The register names (10_state.md R20). -/
inductive RegName
  | cmd
  | status
  | msgAddr
  | msgLen
  | keyAddr
  | keyLen
  | info
  | memLast
  | digest (n : Fin 8)
  deriving DecidableEq, Repr

/-- The offset of a register (10_state.md R20). -/
def RegName.offset : RegName → Nat
  | .cmd => 0x00
  | .status => 0x04
  | .msgAddr => 0x08
  | .msgLen => 0x0C
  | .keyAddr => 0x10
  | .keyLen => 0x14
  | .info => 0x18
  | .memLast => 0x1C
  | .digest n => 0x20 + 4 * n.val

/-- `wr NAME, v` (30_encoding.md R86). -/
def wr (r : RegName) (v : Word) : List Input := [.host (.regWrite 32 r.offset v)]

/-- `rd NAME` (30_encoding.md R86). -/
def rd (r : RegName) : List Input := [.host (.regRead 32 r.offset)]

/-- `wrmem A, b0 b1 ...` (30_encoding.md R86): one step per byte. -/
def wrmem (addr : Nat) : List Byte → List Input
  | [] => []
  | b :: bs => .host (.memWrite addr b) :: wrmem (addr + 1) bs

/-- `cmd MNEMONIC` (30_encoding.md R86). -/
def cmd (i : Instr) : List Input := wr .cmd (encode i)

/-- `poll` (30_encoding.md R86) in a schedule in which the sequencer has `turns` turns before the one STATUS read. -/
def poll (turns : Nat) : List Input := List.replicate turns .sequencer ++ rd .status

/-- `reset` (30_encoding.md R86). -/
def resetLine : List Input := [.host .reset]

/-- `init` (30_encoding.md R87). -/
def initLine : List Input := cmd .init

/-- `block A` (30_encoding.md R87). -/
def blockLine (addr : Word) (turns : Nat) : List Input := wr .msgAddr addr ++ cmd .block ++ poll turns

/-- `hash A, L` (30_encoding.md R87). -/
def hashLine (addr len : Word) (turns : Nat) : List Input :=
  wr .msgAddr addr ++ wr .msgLen len ++ cmd .hash ++ poll turns

/-- `keyload A, L` (30_encoding.md R87). -/
def keyloadLine (addr len : Word) (turns : Nat) : List Input :=
  wr .keyAddr addr ++ wr .keyLen len ++ cmd .keyload ++ poll turns

/-- `hmac A, L` (30_encoding.md R87). -/
def hmacLine (addr len : Word) (turns : Nat) : List Input :=
  wr .msgAddr addr ++ wr .msgLen len ++ cmd .hmac ++ poll turns

/-- `digest` (30_encoding.md R87). -/
def digestLine : List Input := (List.finRange 8).flatMap fun n => rd (.digest n)

end Sys2Proof.Machine
end

