-- ==== Sys2Proof/Safety.lean ====
section
/-! DEFINITION. The terms in which claims speak: idle and rejected states, the invariant of a running job, runs, and
which states a job or a reader cannot tell apart. -/

namespace Sys2Proof.Machine

open Sys2Proof.Config

/-- No fault is recorded and no job runs: the block takes the next CMD write (70_reset_and_hazards.md R252). -/
def Idle (s : State) : Prop := s.fault = none ∧ s.busy = false

/-- The state after a rejection with code `c` (60_exceptions.md R222, 41_engine_commands.md R150): only STATUS differs. -/
def rejectedWith (c : BitVec 4) (s : State) : State := { s with overrun := false, err := c, done := false }

/-- The state after what every accepted command does (41_engine_commands.md R150 to R152). -/
def acceptedAs (op : Instr) (s : State) : State :=
  { s with
    overrun := false, err := 0#4, done := false, op := op, lMsgAddr := s.msgAddr.toNat, lMsgLen := s.msgLen.toNat,
    lKeyAddr := s.keyAddr.toNat, lKeyLen := s.keyLen.toNat }

/-- The buffer length and the block count of an invocation fit its command and the latched operands
(41_engine_commands.md R153 and R162 to R165, 42_hmac_composer.md R194, R196, R197). -/
def stageFits (s : State) : Prop :=
  match s.stage with
  | .block => s.op = .block ∧ s.srcLen = 64 ∧ s.nblk = 1
  | .hash => s.op = .hash ∧ s.srcLen = s.lMsgLen ∧ s.nblk = numBlocks s.srcLen
  | .keyhash => s.op = .keyload ∧ s.srcLen = s.lKeyLen ∧ s.nblk = numBlocks s.srcLen ∧ 64 < s.lKeyLen ∧ s.keyValid = false
  | .inner => s.op = .hmac ∧ s.srcLen = 64 + s.lMsgLen ∧ s.nblk = numBlocks s.srcLen ∧ s.keyValid = true
  | .outer => s.op = .hmac ∧ s.srcLen = 96 ∧ s.nblk = numBlocks s.srcLen ∧ s.keyValid = true

/-- What holds while a job runs. -/
structure JobInv (s : State) : Prop where
  /-- An accepted command never ends in an error code (60_exceptions.md R228). -/
  noError : s.err = 0#4
  /-- DONE is 0 from accept to completion (10_state.md R24). -/
  notDone : s.done = false
  /-- `0 <= blk < nblk` (10_state.md R41). -/
  blkBelow : s.blk < s.nblk
  /-- `16 <= t <= 63` in SCHED (10_state.md R41, 41_engine_commands.md R155). -/
  schedIndex : s.phase = .sched → 16 ≤ s.t.val
  /-- The range check admitted the range the job reads (60_exceptions.md R225). -/
  rangeInside : (activeRange s).2 ≤ s.memBytes
  /-- The invocation is one of those its command starts. -/
  fits : stageFits s

/-- The invariant of the machine. -/
structure Inv (s : State) : Prop where
  /-- MEM keeps its canonical form. -/
  memCanonical : s.mem.wf
  /-- Every written cell lies in MEM (20_memory.md R61). -/
  memInside : ∀ c ∈ s.mem, c.1 < s.memBytes
  /-- The codes 0x5 to 0xF are never written (60_exceptions.md R221). -/
  errNamed : s.err.toNat ≤ 4
  /-- A rejection clears DONE (10_state.md R24). -/
  doneNoError : s.done = true → s.err = 0#4
  /-- The running job, if there is one, is well placed. -/
  job : s.busy = true → JobInv s

/-- `n` steps, stopping at the first fault or refusal. -/
def run : Nat → State → Result
  | 0, s => .next s
  | n + 1, s =>
    match step s with
    | .next s' => run n s'
    | .fault k => .fault k
    | .refused r => .refused r

/-- A run of `n` steps meets no fault and no refusal. -/
def SafeRun (n : Nat) (s : State) : Prop := ∃ t, run n s = .next t

/-- MEM holds the bytes `m` from address `a` on, all written (70_reset_and_hazards.md R253). -/
def holdsBytes (s : State) (a : Nat) (m : List Byte) : Prop :=
  ∀ k (h : k < m.length), s.mem.read (a + k) = some m[k]

/-- The command started a job that keeps BUSY = 1 for `n` sequencer steps (41_engine_commands.md R168). -/
def busyFor (n : Nat) (s : State) : Prop := ∀ k < n, ∃ u, run (1 + k) s = .next u ∧ u.busy = true

/-- Two states in which a running job is the same: everything the sequencer reads or writes, and every byte of MEM in
the active range (41_engine_commands.md R152, 20_memory.md R62). -/
structure SameJob (s s' : State) : Prop where
  params   : s'.params = s.params
  busy     : s'.busy = s.busy
  done     : s'.done = s.done
  keyValid : s'.keyValid = s.keyValid
  err      : s'.err = s.err
  hash     : s'.H = s.H
  working  : s'.V = s.V
  schedule : s'.W = s.W
  key      : s'.KBUF = s.KBUF
  inner    : s'.IDIG = s.IDIG
  op       : s'.op = s.op
  position : s'.stage = s.stage ∧ s'.srcLen = s.srcLen ∧ s'.nblk = s.nblk ∧ s'.blk = s.blk ∧ s'.phase = s.phase ∧ s'.t = s.t
  latched  : s'.lMsgAddr = s.lMsgAddr ∧ s'.lMsgLen = s.lMsgLen ∧ s'.lKeyAddr = s.lKeyAddr ∧ s'.lKeyLen = s.lKeyLen
  fault    : s'.fault = s.fault
  bytes    : ∀ a, inActiveRange s a = true → s'.mem.read a = s.mem.read a

/-- The state with other contents of what the host cannot read: KBUF, IDIG, W, V and the sequencer position
(42_hmac_composer.md R200, 60_exceptions.md R238). -/
def withHidden (s : State) (k : Vector Byte 64) (d v : Vector Word 8) (w : Vector Word 64) (st : Stage) (ph : Phase)
    (L n b : Nat) (i : Fin 64) : State :=
  { s with KBUF := k, IDIG := d, V := v, W := w, stage := st, phase := ph, srcLen := L, nblk := n, blk := b, t := i }

/-- Whether an entry of the schedule is a host write of a word to CMD. -/
def isCmdWrite : Input → Bool
  | .host (.regWrite 32 0x00 _) => true
  | _ => false

/-- Whether an entry of the schedule is a turn of the sequencer. -/
def isTurn : Input → Bool
  | .sequencer => true
  | _ => false

/-- The entry of the schedule the next step takes: the oldest one, or the sequencer's turn with none left. -/
def nextInput (s : State) : Input := s.inputs.headD .sequencer

end Sys2Proof.Machine
end

