-- ==== Sys2Proof/Certificates/Slice0/Obligations.lean ====
section
/-! DEFINITION. The statements about the block, for the provers. -/

open Sys2Proof Sys2Proof.Config Sys2Proof.Machine

/-! ### Command encoding -/

/-- 30_encoding.md R84: decoding of every word, exactly six words decode to a command, and a word that decodes to none,
taken while idle, leads to ILLEGAL_CMD. -/
def Obligations.DecodeFollowsTheOpcodeMap : Prop :=
  (∀ c : Word, decode c =
    if c.extractLsb' 4 28 ≠ 0#28 then none
    else if c.extractLsb' 0 4 = 0x0#4 then some .nop
    else if c.extractLsb' 0 4 = 0x1#4 then some .init
    else if c.extractLsb' 0 4 = 0x2#4 then some .block
    else if c.extractLsb' 0 4 = 0x3#4 then some .hash
    else if c.extractLsb' 0 4 = 0x4#4 then some .keyload
    else if c.extractLsb' 0 4 = 0x5#4 then some .hmac
    else none) ∧
  (∀ c : Word, (decode c).isSome = true ↔ c.toNat < 6) ∧
  ∀ (s : State) (c : Word) (rest : List Input),
    Idle s → s.inputs = .host (.regWrite 32 0x00 c) :: rest → decode c = none →
      ∃ t, step s = .next t ∧ t.err = 0x1#4

/-- 30_encoding.md R80, R82: a word decodes to a command exactly when it is that command's encoding, for all 2^32 words. -/
def Obligations.DecodeIsTheInverseOfEncode : Prop :=
  ∀ (c : Word) (i : Instr), decode c = some i ↔ c = encode i

/-- 30_encoding.md R82: words of the opcode map written out bit by bit. -/
def Obligations.OpcodeMapWordsDecode : Prop :=
  decode 0b00000000000000000000000000000000#32 = some .nop ∧
  decode 0b00000000000000000000000000000001#32 = some .init ∧
  decode 0b00000000000000000000000000000010#32 = some .block ∧
  decode 0b00000000000000000000000000000011#32 = some .hash ∧
  decode 0b00000000000000000000000000000100#32 = some .keyload ∧
  decode 0b00000000000000000000000000000101#32 = some .hmac

/-! ### Taking a command -/

/-- 41_engine_commands.md §1: a host write of a word to CMD runs the command it decodes to, on the state with that entry
taken off the schedule; a word placed by `withFetchWord` is the next one taken. -/
def Obligations.StepRunsTheDecodedCommand : Prop :=
  (∀ (s : State) (c : Word) (i : Instr) (rest : List Input),
    s.fault = none → s.inputs = .host (.regWrite 32 0x00 c) :: rest → decode c = some i →
      step s = exec i { s with inputs := rest }) ∧
  ∀ (s : State) (c : Word) (i : Instr),
    s.fault = none → decode c = some i → step (s.withFetchWord 32 c.toNat) = exec i s

/-- 30_encoding.md R83, 60_exceptions.md R223: a reserved OP or RSV not 0, taken while idle, is rejected with ILLEGAL_CMD,
changing only STATUS; no other word is. -/
def Obligations.ReservedWordsAreRejectedAsIllegal : Prop :=
  ∀ (s : State) (c : Word) (rest : List Input),
    Idle s → s.inputs = .host (.regWrite 32 0x00 c) :: rest →
      ((c.extractLsb' 4 28 ≠ 0#28 ∨ 6 ≤ (c.extractLsb' 0 4).toNat) →
        step s = .next { s with inputs := rest, overrun := false, err := 0x1#4, done := false }) ∧
      (¬ (c.extractLsb' 4 28 ≠ 0#28 ∨ 6 ≤ (c.extractLsb' 0 4).toNat) →
        ∀ t, step s = .next t → t.err ≠ 0x1#4)

/-- 70_reset_and_hazards.md R257: any word written to CMD while BUSY = 1 is dropped and sets OVERRUN; nothing else
changes. -/
def Obligations.CommandWrittenWhileBusyIsDropped : Prop :=
  ∀ (s : State) (c : Word) (rest : List Input),
    s.fault = none → s.busy = true → s.inputs = .host (.regWrite 32 0x00 c) :: rest →
      step s = .next { s with inputs := rest, overrun := true }

/-- 60_exceptions.md R222: whatever word is rejected while idle, only ERR and DONE are written, OVERRUN was cleared, and
nothing else changes; ERR is the code of the check that failed. -/
def Obligations.RejectionWritesOnlyStatus : Prop :=
  (∀ (c : Word) (s t : State),
    s.busy = false → hostWriteCmd c s = .next t → t.err ≠ 0x0#4 →
      t = { s with overrun := false, err := t.err, done := false }) ∧
  (∀ (i : Instr) (s : State) (e : ErrCode), s.busy = false → check i s = some e →
    exec i s = .next { s with overrun := false, err := e.code, done := false }) ∧
  ∀ (c : Word) (s : State), s.busy = false → decode c = none →
    hostWriteCmd c s = .next { s with overrun := false, err := 0x1#4, done := false }

/-- 60_exceptions.md R224, R225, R226, R227: the causes of a rejection of a command taken while idle, in their order, and
that with none of them it is accepted. -/
def Obligations.FirstFailingCheckIsReported : Prop :=
  ∀ s : State, s.busy = false →
    (s.keyValid = false → exec .hmac s = .next (rejectedWith 0x2#4 s)) ∧
    (s.keyValid = true → s.memBytes < s.msgAddr.toNat + s.msgLen.toNat →
      exec .hmac s = .next (rejectedWith 0x3#4 s)) ∧
    (s.keyValid = true → s.msgAddr.toNat + s.msgLen.toNat ≤ s.memBytes → s.params.lengthMode = .reject →
      2 ^ 32 ≤ 8 * (64 + s.msgLen.toNat) → exec .hmac s = .next (rejectedWith 0x4#4 s)) ∧
    (s.memBytes < s.msgAddr.toNat + 64 → exec .block s = .next (rejectedWith 0x3#4 s)) ∧
    (s.memBytes < s.msgAddr.toNat + s.msgLen.toNat → exec .hash s = .next (rejectedWith 0x3#4 s)) ∧
    (s.msgAddr.toNat + s.msgLen.toNat ≤ s.memBytes → s.params.lengthMode = .reject → 2 ^ 32 ≤ 8 * s.msgLen.toNat →
      exec .hash s = .next (rejectedWith 0x4#4 s)) ∧
    (s.memBytes < s.keyAddr.toNat + s.keyLen.toNat → exec .keyload s = .next (rejectedWith 0x3#4 s)) ∧
    (s.keyAddr.toNat + s.keyLen.toNat ≤ s.memBytes → s.params.lengthMode = .reject → 64 < s.keyLen.toNat →
      2 ^ 32 ≤ 8 * s.keyLen.toNat → exec .keyload s = .next (rejectedWith 0x4#4 s)) ∧
    (∀ t, exec .nop s = .next t ∨ exec .init s = .next t → t.err = 0x0#4) ∧
    (∀ t, exec .block s = .next t → s.msgAddr.toNat + 64 ≤ s.memBytes → t.err = 0x0#4) ∧
    (∀ t, exec .hash s = .next t → s.msgAddr.toNat + s.msgLen.toNat ≤ s.memBytes →
      (s.params.lengthMode = .reject → 8 * s.msgLen.toNat < 2 ^ 32) → t.err = 0x0#4) ∧
    (∀ t, exec .keyload s = .next t → s.keyAddr.toNat + s.keyLen.toNat ≤ s.memBytes →
      (s.params.lengthMode = .reject → 64 < s.keyLen.toNat → 8 * s.keyLen.toNat < 2 ^ 32) → t.err = 0x0#4) ∧
    (∀ t, exec .hmac s = .next t → s.keyValid = true → s.msgAddr.toNat + s.msgLen.toNat ≤ s.memBytes →
      (s.params.lengthMode = .reject → 8 * (64 + s.msgLen.toNat) < 2 ^ 32) → t.err = 0x0#4)

/-- The frame of every command: MEM, the operand registers, the parameters, V, W, IDIG and the model's own fields stay;
H stays but for INIT, HASH, a long KEYLOAD and HMAC; KBUF and KEY_VALID stay but for KEYLOAD; BUSY stays but for the
commands that start an invocation. That V, W, IDIG and the position stay while no job runs is the model's choice (log
entry 13): the spec leaves them unspecified there. -/
def Obligations.CommandsLeaveTheRestAlone : Prop :=
  ∀ (i : Instr) (s t : State), exec i s = .next t →
    (∀ a, t.mem.read a = s.mem.read a) ∧
    t.msgAddr = s.msgAddr ∧ t.msgLen = s.msgLen ∧ t.keyAddr = s.keyAddr ∧ t.keyLen = s.keyLen ∧
    t.params = s.params ∧ t.V = s.V ∧ t.W = s.W ∧ t.IDIG = s.IDIG ∧ t.t = s.t ∧
    t.fault = s.fault ∧ t.inputs = s.inputs ∧ t.readData = s.readData ∧ t.draws = s.draws ∧
    (i = .nop ∨ i = .block ∨ (i = .keyload ∧ s.keyLen.toNat ≤ 64) → t.H = s.H) ∧
    (i ≠ .keyload → t.KBUF = s.KBUF ∧ t.keyValid = s.keyValid) ∧
    (i = .nop ∨ i = .init ∨ (i = .keyload ∧ s.keyLen.toNat ≤ 64) →
      t.busy = s.busy ∧ t.stage = s.stage ∧ t.srcLen = s.srcLen ∧ t.nblk = s.nblk ∧ t.blk = s.blk ∧ t.phase = s.phase) ∧
    (i = .keyload → 64 < s.keyLen.toNat → t.KBUF = s.KBUF)

/-! ### The commands -/

/-- 41_engine_commands.md R162: NOP, taken while idle, completes in the accepting step, clears OVERRUN and ERR, and never
sets BUSY; H, KBUF and keyValid are unchanged; from power-on it gives STATUS = 0x00000002.
That V, W, IDIG and the position stay is the model's choice (log entry 13). -/
def Obligations.NopCompletesAtOnce : Prop :=
  encode .nop = 0x00000000#32 ∧
  (∀ s : State, s.busy = false →
    exec .nop s = .next
      { s with
        overrun := false, err := 0x0#4, done := true, op := .nop, lMsgAddr := s.msgAddr.toNat,
        lMsgLen := s.msgLen.toNat, lKeyAddr := s.keyAddr.toNat, lKeyLen := s.keyLen.toNat }) ∧
  ∀ p : Params, ∃ t, exec .nop (State.powerOn p) = .next t ∧ statusWord t = 0x00000002#32

/-- 41_engine_commands.md R163: INIT, taken while idle, loads H with IV and completes in the accepting step. That V, W, IDIG
and the position stay is the model's choice (log entry 13). -/
def Obligations.InitLoadsTheInitialHashState : Prop :=
  encode .init = 0x00000001#32 ∧
  ∀ s : State, s.busy = false →
    exec .init s = .next
      { s with
        H := #v[0x6a09e667#32, 0xbb67ae85#32, 0x3c6ef372#32, 0xa54ff53a#32,
                0x510e527f#32, 0x9b05688c#32, 0x1f83d9ab#32, 0x5be0cd19#32],
        overrun := false, err := 0x0#4, done := true, op := .init, lMsgAddr := s.msgAddr.toNat,
        lMsgLen := s.msgLen.toNat, lKeyAddr := s.keyAddr.toNat, lKeyLen := s.keyLen.toNat }

/-- 41_engine_commands.md §3 (BLOCK) and R153: BLOCK whose 64 bytes lie in MEM, taken while idle, starts one raw block; H is not reloaded.
That V, W and IDIG stay at the accept is the model's choice (log entry 13). -/
def Obligations.BlockStartsOneRawBlock : Prop :=
  encode .block = 0x00000002#32 ∧
  ∀ s : State, s.busy = false → s.msgAddr.toNat + 64 ≤ s.memBytes →
    exec .block s = .next
      { s with
        overrun := false, err := 0x0#4, done := false, op := .block, lMsgAddr := s.msgAddr.toNat,
        lMsgLen := s.msgLen.toNat, lKeyAddr := s.keyAddr.toNat, lKeyLen := s.keyLen.toNat,
        stage := .block, srcLen := 64, nblk := 1, blk := 0, phase := .load, busy := true }

/-- 41_engine_commands.md §3 (HASH) and R153: HASH of a message inside MEM (and, in mode REJECT, short enough), taken while idle, loads IV
and starts the blocks of its padded buffer.
That V, W and IDIG stay at the accept is the model's choice (log entry 13). -/
def Obligations.HashStartsThePaddedMessage : Prop :=
  encode .hash = 0x00000003#32 ∧
  ∀ s : State, s.busy = false → s.msgAddr.toNat + s.msgLen.toNat ≤ s.memBytes →
    (s.params.lengthMode = .reject → 8 * s.msgLen.toNat < 2 ^ 32) →
    exec .hash s = .next
      { s with
        overrun := false, err := 0x0#4, done := false, op := .hash, lMsgAddr := s.msgAddr.toNat,
        lMsgLen := s.msgLen.toNat, lKeyAddr := s.keyAddr.toNat, lKeyLen := s.keyLen.toNat,
        stage := .hash, srcLen := s.msgLen.toNat, nblk := (s.msgLen.toNat + 8) / 64 + 1, blk := 0, phase := .load,
        busy := true, H := IV }

/-- 42_hmac_composer.md R194, the short key: KEYLOAD of at most 64 written bytes inside MEM, taken while idle, completes
in the accepting step with KBUF = the key and zeros; H is unchanged. That V, W, IDIG and the position stay is the model's
choice (log entry 13). -/
def Obligations.ShortKeyloadCompletesAtOnce : Prop :=
  encode .keyload = 0x00000004#32 ∧
  ∀ (s : State) (key : List Byte), s.busy = false → s.keyAddr.toNat + s.keyLen.toNat ≤ s.memBytes →
    key.length = s.keyLen.toNat → key.length ≤ 64 → holdsBytes s s.keyAddr.toNat key →
    ∃ k : Vector Byte 64, k.toList = key ++ List.replicate (64 - key.length) 0x00#8 ∧
      exec .keyload s = .next
        { s with
          overrun := false, err := 0x0#4, done := true, op := .keyload, lMsgAddr := s.msgAddr.toNat,
          lMsgLen := s.msgLen.toNat, lKeyAddr := s.keyAddr.toNat, lKeyLen := s.keyLen.toNat,
          KBUF := k, keyValid := true }

/-- 42_hmac_composer.md R194: a short KEYLOAD, taken while idle with its range inside MEM, faults when a key byte is
unwritten. -/
def Obligations.ShortKeyloadFaultsOnAnUnwrittenByte : Prop :=
  ∀ (s : State) (k : Nat), s.busy = false → s.keyAddr.toNat + s.keyLen.toNat ≤ s.memBytes →
    s.keyLen.toNat ≤ 64 → k < s.keyLen.toNat → s.mem.read (s.keyAddr.toNat + k) = none →
    exec .keyload s = .fault .unwrittenRead

/-- 42_hmac_composer.md R194, the long key: KEYLOAD of more than 64 bytes inside MEM, taken while idle, voids the old key
and starts the KEYHASH stage.
That V, W and IDIG stay at the accept is the model's choice (log entry 13). -/
def Obligations.LongKeyloadStartsTheKeyhashStage : Prop :=
  ∀ s : State, s.busy = false → s.keyAddr.toNat + s.keyLen.toNat ≤ s.memBytes → 64 < s.keyLen.toNat →
    (s.params.lengthMode = .reject → 8 * s.keyLen.toNat < 2 ^ 32) →
    exec .keyload s = .next
      { s with
        overrun := false, err := 0x0#4, done := false, op := .keyload, lMsgAddr := s.msgAddr.toNat,
        lMsgLen := s.msgLen.toNat, lKeyAddr := s.keyAddr.toNat, lKeyLen := s.keyLen.toNat, keyValid := false,
        stage := .keyhash, srcLen := s.keyLen.toNat, nblk := (s.keyLen.toNat + 8) / 64 + 1, blk := 0, phase := .load,
        busy := true, H := IV }

/-- 42_hmac_composer.md §2 (HMAC) and 41_engine_commands.md R153: HMAC with a key loaded and a message inside MEM, taken while idle, loads IV and
starts the INNER stage over 64 + MSG_LEN bytes.
That V, W and IDIG stay at the accept is the model's choice (log entry 13). -/
def Obligations.HmacStartsTheInnerStage : Prop :=
  encode .hmac = 0x00000005#32 ∧
  ∀ s : State, s.busy = false → s.keyValid = true → s.msgAddr.toNat + s.msgLen.toNat ≤ s.memBytes →
    (s.params.lengthMode = .reject → 8 * (64 + s.msgLen.toNat) < 2 ^ 32) →
    exec .hmac s = .next
      { s with
        overrun := false, err := 0x0#4, done := false, op := .hmac, lMsgAddr := s.msgAddr.toNat,
        lMsgLen := s.msgLen.toNat, lKeyAddr := s.keyAddr.toNat, lKeyLen := s.keyLen.toNat,
        stage := .inner, srcLen := 64 + s.msgLen.toNat, nblk := (64 + s.msgLen.toNat + 8) / 64 + 1, blk := 0,
        phase := .load, busy := true, H := IV }

/-! ### The sequencer -/

/-- 41_engine_commands.md R159, R154 and 20_memory.md R64: a stream byte of BLOCK, HASH and KEYHASH is the byte of MEM the
rule names, and is missing where that byte is unwritten (HmacJobComputesTheCode says the same of INNER and OUTER); from the
buffer's length on it is the pad byte, whatever the source holds. LOAD decodes the 64 stream bytes of its block big-endian
into W[0..15], copies H to V and goes to SCHED at t = 16; a missing stream byte makes it fault. What the stream bytes are in
states no run reaches (BLOCK from byte 64 on, OUTER from byte 96 on, past the padded length or MEM_BYTES) is the model's
choice (log entry 15). -/
def Obligations.LoadDecodesTheBlockBigEndian : Prop :=
  (∀ (s : State) (j : Nat),
    (s.stage = .block → j < 64 → streamByte s j = s.mem.read (s.lMsgAddr + j)) ∧
    (s.stage = .hash → j < s.srcLen → streamByte s j = s.mem.read (s.lMsgAddr + j)) ∧
    (s.stage = .keyhash → j < s.srcLen → streamByte s j = s.mem.read (s.lKeyAddr + j)) ∧
    (s.stage ≠ .block → s.srcLen ≤ j → j < paddedLen s.srcLen →
      ∀ src, streamByte s j = padByte s.params.lengthMode s.srcLen j src)) ∧
  ∀ s : State, s.busy = true → s.phase = .load →
    (∀ B : Vector Byte 64, (∀ j (h : j < 64), streamByte s (64 * s.blk + j) = some B[j]) →
      ∃ w : Vector Word 64,
        (∀ (i : Nat) (h : i < 16), w[i] = B[4 * i] ++ B[4 * i + 1] ++ B[4 * i + 2] ++ B[4 * i + 3]) ∧
        (∀ (i : Nat) (h : i < 64), 16 ≤ i → w[i] = s.W[i]) ∧
        sequencerStep s = .next { s with W := w, V := s.H, phase := .sched, t := 16 }) ∧
    ((∃ j < 64, streamByte s (64 * s.blk + j) = none) → sequencerStep s = .fault .unwrittenRead)

/-- 41_engine_commands.md R155: SCHED writes W[t] alone and moves t, or goes to ROUND at t = 0. -/
def Obligations.SchedWritesOneScheduleEntry : Prop :=
  ∀ s : State, s.busy = true → s.phase = .sched → ∀ h : 16 ≤ s.t.val,
    sequencerStep s = .next
      { s with
        W := s.W.set s.t.val
          (s.W[s.t.val - 16] + smallSigma0 s.W[s.t.val - 15] + s.W[s.t.val - 7] + smallSigma1 s.W[s.t.val - 2]),
        phase := if s.t.val = 63 then .round else .sched,
        t := if s.t.val = 63 then 0 else s.t + 1 }

/-- 41_engine_commands.md R156 and 40_digest_datapath.md R115, R116, R117: ROUND, with every right-hand side read before
the round. -/
def Obligations.RoundRotatesTheWorkingRegisters : Prop :=
  ∀ s : State, s.busy = true → s.phase = .round →
    ∀ t1 t2 : Word,
      t1 = s.V[7] + bigSigma1 s.V[4] + choose s.V[4] s.V[5] s.V[6] + K[s.t] + s.W[s.t] →
      t2 = bigSigma0 s.V[0] + majority s.V[0] s.V[1] s.V[2] →
      sequencerStep s = .next
        { s with
          V := #v[t1 + t2, s.V[0], s.V[1], s.V[2], s.V[3] + t1, s.V[4], s.V[5], s.V[6]],
          phase := if s.t.val = 63 then .add else .round,
          t := if s.t.val = 63 then s.t else s.t + 1 }

/-- 41_engine_commands.md R157, R158, R160 and 42_hmac_composer.md R195, R197: ADD adds V back lane by lane, and goes on
with the next block or ends its stage. That V, W, IDIG and the position keep their values once the job has ended is the
model's choice (log entry 13). -/
def Obligations.AddEndsTheBlockOrTheStage : Prop :=
  ∀ (s : State) (Hn : Vector Word 8), s.busy = true → s.phase = .add →
    (∀ (i : Nat) (h : i < 8), Hn[i] = s.H[i] + s.V[i]) →
      (s.blk + 1 < s.nblk → sequencerStep s = .next { s with H := Hn, blk := s.blk + 1, phase := .load }) ∧
      (s.nblk ≤ s.blk + 1 → s.stage = .block ∨ s.stage = .hash ∨ s.stage = .outer →
        sequencerStep s = .next { s with H := Hn, busy := false, done := true }) ∧
      (s.nblk ≤ s.blk + 1 → s.stage = .keyhash →
        ∃ k : Vector Byte 64, k.toList = bytesBE Hn ++ List.replicate 32 0x00#8 ∧
          sequencerStep s = .next { s with H := Hn, KBUF := k, keyValid := true, busy := false, done := true }) ∧
      (s.nblk ≤ s.blk + 1 → s.stage = .inner →
        sequencerStep s = .next
          { s with
            IDIG := Hn, H := IV, stage := .outer, srcLen := 96, nblk := 2, blk := 0, phase := .load, busy := true })

/-- 41_engine_commands.md §2: with no fault recorded, the sequencer has a step exactly while BUSY = 1: its turn then
answers another state or the fault of an unwritten byte; while BUSY = 0 its turn changes nothing but the schedule (the
model's choice, log entry 2). -/
def Obligations.SequencerStepsExactlyWhileBusy : Prop :=
  ∀ (s : State) (rest : List Input), s.fault = none → s.inputs = .sequencer :: rest →
    (s.busy = false → step s = .next { s with inputs := rest }) ∧
    (s.busy = true → (∃ t, step s = .next t ∧ t ≠ { s with inputs := rest }) ∨ step s = .fault .unwrittenRead)

/-- The frame of the sequencer: it never writes MEM, the operand registers, the latched operands, OVERRUN, ERR or the
model's own fields; each internal register changes only in the steps that write it. Two clauses are the model's choice: an
idle turn, which the spec does not have, changes nothing (log entry 2); and at the ADD that ends a job V, W, IDIG, op and t,
unspecified from there on, keep their values (log entry 13). -/
def Obligations.SequencerLeavesTheRestAlone : Prop :=
  ∀ s t : State, sequencerStep s = .next t →
    (∀ a, t.mem.read a = s.mem.read a) ∧
    t.msgAddr = s.msgAddr ∧ t.msgLen = s.msgLen ∧ t.keyAddr = s.keyAddr ∧ t.keyLen = s.keyLen ∧
    t.lMsgAddr = s.lMsgAddr ∧ t.lMsgLen = s.lMsgLen ∧ t.lKeyAddr = s.lKeyAddr ∧ t.lKeyLen = s.lKeyLen ∧
    t.overrun = s.overrun ∧ t.err = s.err ∧ t.op = s.op ∧ t.params = s.params ∧
    t.fault = s.fault ∧ t.inputs = s.inputs ∧ t.readData = s.readData ∧ t.draws = s.draws ∧
    (s.phase ≠ .add → t.H = s.H ∧ t.KBUF = s.KBUF ∧ t.IDIG = s.IDIG ∧ t.keyValid = s.keyValid ∧ t.busy = s.busy ∧
      t.done = s.done ∧ t.stage = s.stage ∧ t.srcLen = s.srcLen ∧ t.nblk = s.nblk ∧ t.blk = s.blk) ∧
    (s.phase ≠ .load → s.phase ≠ .sched → t.W = s.W) ∧
    (s.phase ≠ .load → s.phase ≠ .round → t.V = s.V) ∧
    (s.stage ≠ .keyhash → t.KBUF = s.KBUF ∧ t.keyValid = s.keyValid) ∧
    (s.stage ≠ .inner → t.IDIG = s.IDIG) ∧
    (s.phase = .add → t.t = s.t) ∧
    (s.busy = false → t = s)

/-! ### The digest datapath -/

/-- 40_digest_datapath.md R103 to R106: the bits of the four sigma functions. -/
def Obligations.SigmasXorTheirRotatedBits : Prop :=
  ∀ (x : Word) (k : Nat), k < 32 →
    (smallSigma0 x).getLsbD k =
      ((x.getLsbD ((k + 7) % 32) ^^ x.getLsbD ((k + 18) % 32)) ^^ (decide (k + 3 < 32) && x.getLsbD (k + 3))) ∧
    (smallSigma1 x).getLsbD k =
      ((x.getLsbD ((k + 17) % 32) ^^ x.getLsbD ((k + 19) % 32)) ^^ (decide (k + 10 < 32) && x.getLsbD (k + 10))) ∧
    (bigSigma0 x).getLsbD k =
      ((x.getLsbD ((k + 2) % 32) ^^ x.getLsbD ((k + 13) % 32)) ^^ x.getLsbD ((k + 22) % 32)) ∧
    (bigSigma1 x).getLsbD k =
      ((x.getLsbD ((k + 6) % 32) ^^ x.getLsbD ((k + 11) % 32)) ^^ x.getLsbD ((k + 25) % 32))

/-- 40_digest_datapath.md R107, R108: `Ch` selects, `Maj` is the majority, bit by bit. -/
def Obligations.ChooseSelectsAndMajorityVotes : Prop :=
  ∀ (x y z : Word) (k : Nat),
    (choose x y z).getLsbD k = (if x.getLsbD k then y.getLsbD k else z.getLsbD k) ∧
    (majority x y z).getLsbD k =
      decide (2 ≤ (x.getLsbD k).toNat + (y.getLsbD k).toNat + (z.getLsbD k).toNat)

/-- 40_digest_datapath.md §3: IV and K are the first 32 bits of the fractional parts of the square and cube roots of the
first primes (the spec marks the tables as from general knowledge). -/
def Obligations.ConstantTablesAreTheRootsOfPrimes : Prop :=
  ∃ p : Vector Nat 64,
    (∀ n, n ∈ p.toList ↔ (Nat.Prime n ∧ n ≤ 311)) ∧ p.toList.Pairwise (· < ·) ∧
    (∀ (i : Nat) (h : i < 8), ∃ r, r ^ 2 ≤ p[i] * 2 ^ 64 ∧ p[i] * 2 ^ 64 < (r + 1) ^ 2 ∧ IV[i].toNat = r % 2 ^ 32) ∧
    (∀ (i : Nat) (h : i < 64), ∃ r, r ^ 3 ≤ p[i] * 2 ^ 96 ∧ p[i] * 2 ^ 96 < (r + 1) ^ 3 ∧ K[i].toNat = r % 2 ^ 32)

/-- 40_digest_datapath.md R112, R113, R114: the schedule of a block, each entry. -/
def Obligations.ScheduleDecodesThenExpands : Prop :=
  ∀ B : Vector Byte 64,
    (∀ (i : Nat) (h : i < 16), (schedule B)[i] = B[4 * i] ++ B[4 * i + 1] ++ B[4 * i + 2] ++ B[4 * i + 3]) ∧
    (∀ (i : Nat) (h : i < 64), 16 ≤ i →
      (schedule B)[i] = (schedule B)[i - 16] + smallSigma0 (schedule B)[i - 15] + (schedule B)[i - 7]
        + smallSigma1 (schedule B)[i - 2])

/-- 40_digest_datapath.md R118: the compression is the add-back of any 64 rounds over the schedule of the block. -/
def Obligations.CompressIsSixtyFourRoundsAndTheAddBack : Prop :=
  ∀ (Hin : Vector Word 8) (B : Vector Byte 64) (v : Nat → Vector Word 8),
    v 0 = Hin → (∀ (t : Nat) (h : t < 64), v (t + 1) = roundStep ⟨t, h⟩ (v t) (schedule B)[t]) →
      ∀ (i : Nat) (h : i < 8), (compress Hin B)[i] = Hin[i] + (v 64)[i]

/-- 40_digest_datapath.md §6 (R119): PLEN is the smallest multiple of 64 that holds the buffer, the marker and the length field, which
start at 56 modulo 64. -/
def Obligations.PaddedLengthIsTheSmallestMultiple : Prop :=
  ∀ L : Nat, paddedLen L % 64 = 0 ∧ L + 9 ≤ paddedLen L ∧ (paddedLen L - 8) % 64 = 56 ∧
    (∀ n, n % 64 = 0 → L + 9 ≤ n → paddedLen L ≤ n) ∧ numBlocks L = paddedLen L / 64

/-- 40_digest_datapath.md R121: byte j of the padded buffer, in the rule's four cases; the byte source is asked only for
bytes of m. -/
def Obligations.PadByteIsTheByteOfThePaddedBuffer : Prop :=
  ∀ (mode : LengthMode) (m : List Byte) (src : Nat → Option Byte),
    (∀ k (h : k < m.length), src k = some m[k]) →
      (pad mode m).length = paddedLen m.length ∧ m.length + 9 ≤ paddedLen m.length ∧
      ∀ j (h : j < (pad mode m).length),
        padByte mode m.length j src = some (pad mode m)[j] ∧
        (∀ h' : j < m.length, (pad mode m)[j] = m[j]) ∧
        (j = m.length → (pad mode m)[j] = 0x80#8) ∧
        (m.length < j → j < paddedLen m.length - 8 → (pad mode m)[j] = 0x00#8) ∧
        (paddedLen m.length - 8 ≤ j →
          (lenField mode m.length)[j - (paddedLen m.length - 8)]? = some (pad mode m)[j])

/-- 40_digest_datapath.md R120: the length field is the bit length, big-endian; TRUNC32 keeps its low 32 bits; below 2^32
bits the modes agree; in mode REJECT a command whose buffer has 2^32 bits or more is rejected, a HASH of a message in MEM
with LENGTH. -/
def Obligations.LengthFieldHoldsTheBitLength : Prop :=
  (∀ (mode : LengthMode) (L : Nat), (lenField mode L).length = 8) ∧
  (∀ L : Nat, 8 * L < 2 ^ 64 →
    (lenField .full64 L).foldl (fun n b => 256 * n + b.toNat) 0 = 8 * L ∧
    (lenField .reject L).foldl (fun n b => 256 * n + b.toNat) 0 = 8 * L ∧
    (lenField .trunc32 L).foldl (fun n b => 256 * n + b.toNat) 0 = 8 * L % 2 ^ 32) ∧
  (∀ (L : Nat) (m m' : LengthMode), 8 * L < 2 ^ 32 → lenField m L = lenField m' L) ∧
  (∀ (i : Instr) (s : State) (L : Nat), s.busy = false → paddedOperand i s = some L → s.params.lengthMode = .reject →
    2 ^ 32 ≤ 8 * L → ∃ t, exec i s = .next t ∧ t.busy = false ∧ t.err ≠ 0x0#4) ∧
  (∀ s : State, s.busy = false → s.msgAddr.toNat + s.msgLen.toNat ≤ s.memBytes → s.params.lengthMode = .reject →
    2 ^ 32 ≤ 8 * s.msgLen.toNat → exec .hash s = .next (rejectedWith 0x4#4 s))

/-- 42_hmac_composer.md §1: a key shorter than 64 bytes and the same key with trailing zero bytes up to 64 give the same
code. -/
def Obligations.TrailingZerosOfAShortKeyDoNotMatter : Prop :=
  ∀ (mode : LengthMode) (key m : List Byte) (n : Nat), key.length + n ≤ 64 →
    hmac mode (key ++ List.replicate n 0x00#8) m = hmac mode key m

/-! ### What a job computes -/

/-- 41_engine_commands.md §4: from an idle block whose host writes the word of BLOCK and then waits, 114 sequencer steps
leave H the compression of its 64 bytes into the old H; nothing else the host can see changes but STATUS. That the host
waits as an empty schedule, which gives the sequencer every turn, is the model's choice (log entry 2). -/
def Obligations.BlockJobCompressesItsBytes : Prop :=
  ∀ (s : State) (B : Vector Byte 64),
    Idle s → s.inputs = [.host (.regWrite 32 0x00 0x00000002#32)] → s.msgAddr.toNat + 64 ≤ s.memBytes →
    holdsBytes s s.msgAddr.toNat B.toList →
      busyFor 114 s ∧
      ∃ t, run 115 s = .next t ∧ t.H = compress s.H B ∧ t.busy = false ∧ t.done = true ∧ t.err = 0x0#4 ∧
        t.overrun = false ∧ t.keyValid = s.keyValid ∧ t.KBUF = s.KBUF ∧ t.mem = s.mem ∧ t.msgAddr = s.msgAddr ∧
        t.msgLen = s.msgLen ∧ t.keyAddr = s.keyAddr ∧ t.keyLen = s.keyLen ∧ t.fault = none ∧ t.inputs = []

/-- 41_engine_commands.md §4: from an idle block whose host writes the word of HASH and then waits, 114 sequencer steps
for each block of the padded message leave H the SHA-256 of the message, with the length field of the block's mode. That
the host waits as an empty schedule, which gives the sequencer every turn, is the model's choice (log entry 2). -/
def Obligations.HashJobComputesSha256 : Prop :=
  ∀ (s : State) (m : List Byte),
    Idle s → s.inputs = [.host (.regWrite 32 0x00 0x00000003#32)] → m.length = s.msgLen.toNat →
    s.msgAddr.toNat + m.length ≤ s.memBytes → (s.params.lengthMode = .reject → 8 * m.length < 2 ^ 32) →
    holdsBytes s s.msgAddr.toNat m →
      busyFor (114 * numBlocks m.length) s ∧
      ∃ t, run (1 + 114 * numBlocks m.length) s = .next t ∧ bytesBE t.H = sha256 s.params.lengthMode m ∧
        t.busy = false ∧ t.done = true ∧ t.err = 0x0#4 ∧ t.overrun = false ∧ t.keyValid = s.keyValid ∧
        t.KBUF = s.KBUF ∧ t.mem = s.mem ∧ t.msgAddr = s.msgAddr ∧ t.msgLen = s.msgLen ∧ t.keyAddr = s.keyAddr ∧
        t.keyLen = s.keyLen ∧ t.fault = none ∧ t.inputs = []

/-- 42_hmac_composer.md §2: KEYLOAD of a key of any length, then waiting, leaves KBUF = K0(key) and KEY_VALID = 1; a key
of more than 64 bytes takes 114 steps for each block of its padded buffer, with BUSY = 1 until the last, and leaves H its
digest, a shorter one takes none and leaves H alone. That the host waits as an empty schedule, which gives the sequencer
every turn, is the model's choice (log entry 2). -/
def Obligations.KeyloadHoldsTheBlockSizedKey : Prop :=
  ∀ (s : State) (key : List Byte),
    Idle s → s.inputs = [.host (.regWrite 32 0x00 0x00000004#32)] → key.length = s.keyLen.toNat →
    s.keyAddr.toNat + key.length ≤ s.memBytes →
    (s.params.lengthMode = .reject → 64 < key.length → 8 * key.length < 2 ^ 32) →
    holdsBytes s s.keyAddr.toNat key →
      (64 < key.length → busyFor (114 * numBlocks key.length) s) ∧
      ∃ t, run (1 + if 64 < key.length then 114 * numBlocks key.length else 0) s = .next t ∧
        t.KBUF.toList = blockKey s.params.lengthMode key ∧ t.keyValid = true ∧ t.busy = false ∧ t.done = true ∧
        t.err = 0x0#4 ∧ t.overrun = false ∧ (64 < key.length → bytesBE t.H = sha256 s.params.lengthMode key) ∧
        (key.length ≤ 64 → t.H = s.H) ∧ t.mem = s.mem ∧ t.msgAddr = s.msgAddr ∧ t.msgLen = s.msgLen ∧
        t.keyAddr = s.keyAddr ∧ t.keyLen = s.keyLen ∧ t.fault = none ∧ t.inputs = []

/-- 42_hmac_composer.md R191, R192, R193 and §3: the bytes below 64 of the INNER and OUTER buffers are those of KBUF XORed
with 0x36 and 0x5c, with the message and the inner digest after them; the code is the digest of these two buffers; and from
an idle block that holds K0 of a key, whose host writes the word of HMAC and then waits, 114 sequencer steps for each inner
block and for the two outer blocks leave H the HMAC of the key and the message; KBUF and KEY_VALID stay. That the OUTER
buffer has no byte from 96 on, in states no run reaches, is the model's choice (log entry 15). That the host waits
as an empty schedule, which gives the sequencer every turn, is the model's choice (log entry 2). -/
def Obligations.HmacJobComputesTheCode : Prop :=
  (∀ (s : State) (j : Nat), j < s.srcLen →
    (s.stage = .inner →
      (∀ h : j < 64, streamByte s j = some (s.KBUF[j] ^^^ 0x36#8)) ∧
      (64 ≤ j → streamByte s j = s.mem.read (s.lMsgAddr + (j - 64)))) ∧
    (s.stage = .outer →
      (∀ h : j < 64, streamByte s j = some (s.KBUF[j] ^^^ 0x5c#8)) ∧
      (64 ≤ j → streamByte s j = (bytesBE s.IDIG)[j - 64]?))) ∧
  (∀ (mode : LengthMode) (key m : List Byte),
    hmac mode key m = sha256 mode ((blockKey mode key).map (· ^^^ 0x5c#8) ++
      sha256 mode ((blockKey mode key).map (· ^^^ 0x36#8) ++ m))) ∧
  ∀ (s : State) (key m : List Byte),
    Idle s → s.inputs = [.host (.regWrite 32 0x00 0x00000005#32)] → s.keyValid = true →
    s.KBUF.toList = blockKey s.params.lengthMode key → m.length = s.msgLen.toNat →
    s.msgAddr.toNat + m.length ≤ s.memBytes →
    (s.params.lengthMode = .reject → 8 * (64 + m.length) < 2 ^ 32) → holdsBytes s s.msgAddr.toNat m →
      busyFor (114 * (numBlocks (64 + m.length) + 2)) s ∧
      ∃ t, run (1 + 114 * (numBlocks (64 + m.length) + 2)) s = .next t ∧
        bytesBE t.H = hmac s.params.lengthMode key m ∧ t.busy = false ∧ t.done = true ∧ t.err = 0x0#4 ∧
        t.overrun = false ∧ t.keyValid = true ∧ t.KBUF = s.KBUF ∧ t.mem = s.mem ∧ t.msgAddr = s.msgAddr ∧
        t.msgLen = s.msgLen ∧ t.keyAddr = s.keyAddr ∧ t.keyLen = s.keyLen ∧ t.fault = none ∧ t.inputs = []

/-! ### The register window -/

/-- 10_state.md R22: the fields of STATUS, what a host read and a host write of it do, and its reset value. -/
def Obligations.StatusShowsItsFields : Prop :=
  (∀ s : State,
    (statusWord s).getLsbD 0 = s.busy ∧ (statusWord s).getLsbD 1 = s.done ∧ (statusWord s).getLsbD 2 = s.keyValid ∧
    (statusWord s).getLsbD 3 = s.overrun ∧ (statusWord s).extractLsb' 4 4 = s.err ∧
    (statusWord s).extractLsb' 8 24 = 0#24 ∧
    (statusWord s).toNat =
      16 * s.err.toNat + 8 * s.overrun.toNat + 4 * s.keyValid.toNat + 2 * s.done.toNat + s.busy.toNat) ∧
  (∀ (s : State) (rest : List Input), s.fault = none → s.inputs = .host (.regRead 32 0x04) :: rest →
    step s = .next { s with inputs := rest, readData := some (.word (statusWord s)) }) ∧
  (∀ (s : State) (rest : List Input) (v : Word), s.fault = none → s.inputs = .host (.regWrite 32 0x04 v) :: rest →
    step s = .next { s with inputs := rest }) ∧
  (∀ p : Params, statusWord (State.powerOn p) = 0x00000000#32)

/-- 10_state.md R33, R34: INFO and MEM_LAST are constants of the parameters, read with no side effect, and writes to them
are ignored. -/
def Obligations.InfoAndMemLastAreConstants : Prop :=
  (∀ (s : State) (rest : List Input), s.fault = none → s.inputs = .host (.regRead 32 0x18) :: rest →
    ∃ w : Word, step s = .next { s with inputs := rest, readData := some (.word w) } ∧
      (s.params.lengthMode = .full64 → w.extractLsb' 0 2 = 0#2) ∧
      (s.params.lengthMode = .trunc32 → w.extractLsb' 0 2 = 1#2) ∧
      (s.params.lengthMode = .reject → w.extractLsb' 0 2 = 2#2) ∧
      w.extractLsb' 2 6 = 0#6 ∧ w.extractLsb' 8 8 = 0x01#8 ∧ w.extractLsb' 16 16 = 0#16 ∧
      (s.params.lengthMode = .full64 → w = 0x00000100#32)) ∧
  (∀ (s : State) (rest : List Input), s.fault = none → s.inputs = .host (.regRead 32 0x1C) :: rest →
    ∃ w : Word, w.toNat = s.memBytes - 1 ∧ step s = .next { s with inputs := rest, readData := some (.word w) }) ∧
  (∀ (s : State) (rest : List Input) (v : Word), s.fault = none →
    s.inputs = .host (.regWrite 32 0x18 v) :: rest ∨ s.inputs = .host (.regWrite 32 0x1C v) :: rest →
      step s = .next { s with inputs := rest }) ∧
  (∀ s t : State, step s = .next t → t.params = s.params)

/-- 10_state.md R35: a read of DIGESTn returns H[n] while idle and a draw while busy, one draw per read; a write is
ignored; the 32 digest bytes are those of the eight words in order. -/
def Obligations.DigestShowsTheHashStateWhileIdle : Prop :=
  (∀ (s : State) (rest : List Input) (n : Nat) (h : n < 8), s.fault = none →
    s.inputs = .host (.regRead 32 (0x20 + 4 * n)) :: rest →
      (s.busy = false → step s = .next { s with inputs := rest, readData := some (.word s.H[n]) }) ∧
      (s.busy = true → step s = .next
        { s with inputs := rest, readData := some (.word (freeWord s.draws)), draws := s.draws + 1 })) ∧
  (∀ (s : State) (rest : List Input) (n : Nat) (v : Word), n < 8 → s.fault = none →
    s.inputs = .host (.regWrite 32 (0x20 + 4 * n) v) :: rest → step s = .next { s with inputs := rest }) ∧
  ∀ H : Vector Word 8, bytesBE H =
    bytesBE32 H[0] ++ bytesBE32 H[1] ++ bytesBE32 H[2] ++ bytesBE32 H[3] ++ bytesBE32 H[4] ++ bytesBE32 H[5]
      ++ bytesBE32 H[6] ++ bytesBE32 H[7]

/-- 10_state.md R28 to R32, 70_reset_and_hazards.md R258: an operand register takes a write at once, also while busy, with
no other effect; a read returns it with no side effect; no other step but a write to it and reset changes it. -/
def Obligations.OperandRegistersHoldTheLastWrite : Prop :=
  (∀ (s : State) (rest : List Input) (v : Word), s.fault = none →
    (s.inputs = .host (.regWrite 32 0x08 v) :: rest → step s = .next { s with inputs := rest, msgAddr := v }) ∧
    (s.inputs = .host (.regWrite 32 0x0C v) :: rest → step s = .next { s with inputs := rest, msgLen := v }) ∧
    (s.inputs = .host (.regWrite 32 0x10 v) :: rest → step s = .next { s with inputs := rest, keyAddr := v }) ∧
    (s.inputs = .host (.regWrite 32 0x14 v) :: rest → step s = .next { s with inputs := rest, keyLen := v })) ∧
  (∀ (s : State) (rest : List Input), s.fault = none →
    (s.inputs = .host (.regRead 32 0x08) :: rest →
      step s = .next { s with inputs := rest, readData := some (.word s.msgAddr) }) ∧
    (s.inputs = .host (.regRead 32 0x0C) :: rest →
      step s = .next { s with inputs := rest, readData := some (.word s.msgLen) }) ∧
    (s.inputs = .host (.regRead 32 0x10) :: rest →
      step s = .next { s with inputs := rest, readData := some (.word s.keyAddr) }) ∧
    (s.inputs = .host (.regRead 32 0x14) :: rest →
      step s = .next { s with inputs := rest, readData := some (.word s.keyLen) })) ∧
  ∀ s t : State, step s = .next t → nextInput s ≠ .host .reset →
    ((∀ v, nextInput s ≠ .host (.regWrite 32 0x08 v)) → t.msgAddr = s.msgAddr) ∧
    ((∀ v, nextInput s ≠ .host (.regWrite 32 0x0C v)) → t.msgLen = s.msgLen) ∧
    ((∀ v, nextInput s ≠ .host (.regWrite 32 0x10 v)) → t.keyAddr = s.keyAddr) ∧
    ((∀ v, nextInput s ≠ .host (.regWrite 32 0x14 v)) → t.keyLen = s.keyLen)

/-- 10_state.md R21: a read of CMD returns 0 and has no effect, whatever was written to it before. -/
def Obligations.CmdReadsAsZero : Prop :=
  ∀ (s : State) (rest : List Input), s.fault = none → s.inputs = .host (.regRead 32 0x00) :: rest →
    step s = .next { s with inputs := rest, readData := some (.word 0x00000000#32) }

/-- 20_memory.md R68: a register access faults with HOST_ACCESS exactly when its width is not 32 bits, its offset no
multiple of 4 or above 0x3C. -/
def Obligations.MalformedRegisterAccessFaults : Prop :=
  ∀ (s : State) (rest : List Input) (width off : Nat), s.fault = none →
    (s.inputs = .host (.regRead width off) :: rest →
      ((width ≠ 32 ∨ off % 4 ≠ 0 ∨ 0x3C < off) ↔ step s = .fault .hostAccess)) ∧
    ∀ v : Word, s.inputs = .host (.regWrite width off v) :: rest →
      ((width ≠ 32 ∨ off % 4 ≠ 0 ∨ 0x3C < off) ↔ step s = .fault .hostAccess)

/-! ### MEM -/

/-- 20_memory.md R62: a host write of MEM: its two faults and its effect, read back at every address. -/
def Obligations.HostMemoryWriteStoresOneByte : Prop :=
  ∀ (s : State) (rest : List Input) (a : Nat) (v : Byte), s.fault = none →
    s.inputs = .host (.memWrite a v) :: rest →
    (s.memBytes ≤ a → step s = .fault .hostAccess) ∧
    (∀ lo hi : Nat,
      (s.op = .block → lo = s.lMsgAddr ∧ hi = s.lMsgAddr + 64) →
      (s.op = .hash ∨ s.op = .hmac → lo = s.lMsgAddr ∧ hi = s.lMsgAddr + s.lMsgLen) →
      (s.op = .keyload → lo = s.lKeyAddr ∧ hi = s.lKeyAddr + s.lKeyLen) →
      s.op ≠ .nop → s.op ≠ .init → a < s.memBytes →
        (s.busy = true → lo ≤ a → a < hi → step s = .fault .memWriteWhileBusy) ∧
        (s.busy = false ∨ a < lo ∨ hi ≤ a → ∃ m : Memory,
          step s = .next { s with inputs := rest, mem := m } ∧ m.read a = some v ∧
          ∀ b, b ≠ a → m.read b = s.mem.read b)) ∧
    (a < s.memBytes → s.busy = false → ∃ m : Memory,
      step s = .next { s with inputs := rest, mem := m } ∧ m.read a = some v ∧ ∀ b, b ≠ a → m.read b = s.mem.read b)

/-- 20_memory.md R63: a host read of MEM: its two faults and its value, with no side effect, also while busy. -/
def Obligations.HostMemoryReadReturnsTheByte : Prop :=
  ∀ (s : State) (rest : List Input) (a : Nat), s.fault = none → s.inputs = .host (.memRead a) :: rest →
    (s.memBytes ≤ a → step s = .fault .hostAccess) ∧
    (a < s.memBytes → s.mem.read a = none → step s = .fault .unwrittenRead) ∧
    (∀ v, a < s.memBytes → s.mem.read a = some v →
      step s = .next { s with inputs := rest, readData := some (.byte v) })

/-- 20_memory.md §1: MEM changes only in a host MEM write, and then at its address alone; reset, commands and the sequencer keep it. -/
def Obligations.OnlyHostWritesChangeMemory : Prop :=
  ∀ s t : State, step s = .next t → ∀ b,
    t.mem.read b = s.mem.read b ∨ ∃ v, nextInput s = .host (.memWrite b v) ∧ t.mem.read b = some v

/-! ### Reset and faults -/

/-- 70_reset_and_hazards.md R251: the state at power-on, for every value of the parameters, as far as the spec gives it. -/
def Obligations.PowerOnStateIsIdleAndUnwritten : Prop :=
  ∀ p : Params,
    (State.powerOn p).params = p ∧
    (State.powerOn p).msgAddr = 0#32 ∧ (State.powerOn p).msgLen = 0#32 ∧ (State.powerOn p).keyAddr = 0#32 ∧
    (State.powerOn p).keyLen = 0#32 ∧ statusWord (State.powerOn p) = 0#32 ∧
    (∀ (i : Nat) (h : i < 8), (State.powerOn p).H[i] = IV[i]) ∧
    (∀ (j : Nat) (h : j < 64), (State.powerOn p).KBUF[j] = 0x00#8) ∧
    (∀ a, (State.powerOn p).mem.read a = none) ∧ (State.powerOn p).fault = none

/-- 70_reset_and_hazards.md R250: reset can be taken at any time, also while busy, when no fault is recorded; it gives
every piece of state its value of 10_state.md R49 where there is one, keeps MEM, and abandons a running job. -/
def Obligations.ResetRestoresTheResetValues : Prop :=
  (∀ (s : State) (rest : List Input), s.fault = none → s.inputs = .host .reset :: rest →
    ∃ t, step s = .next t ∧
      t.msgAddr = 0#32 ∧ t.msgLen = 0#32 ∧ t.keyAddr = 0#32 ∧ t.keyLen = 0#32 ∧
      t.busy = false ∧ t.done = false ∧ t.keyValid = false ∧ t.overrun = false ∧ t.err = 0x0#4 ∧
      (∀ (i : Nat) (h : i < 8), t.H[i] = IV[i]) ∧ (∀ (j : Nat) (h : j < 64), t.KBUF[j] = 0x00#8) ∧
      t.mem = s.mem ∧ t.params = s.params ∧ t.fault = none ∧ t.inputs = rest ∧ t.draws = s.draws) ∧
  ∀ (s : State) (rest : List Input) (k : Fault), s.fault = some k → s.inputs = .host .reset :: rest →
    step s = .fault k

/-- 60_exceptions.md R231: a fault leaves the state as it was before the step, marked faulted, and a faulted state has no
further step of any agent, reset included. -/
def Obligations.AFaultIsFinal : Prop :=
  (∀ (s : State) (k : Fault), step s = .fault k → advance s = { s with fault := some k }) ∧
  ∀ (s : State) (k : Fault) (l : List Input), s.fault = some k → step { s with inputs := l } = .fault k

/-- 60_exceptions.md R230: the fault kinds and what raises each; the machine never refuses. -/
def Obligations.EveryFaultHasItsCause : Prop :=
  (∀ s : State, s.fault = none → step s = .fault .hostAccess →
    (∃ w off, nextInput s = .host (.regRead w off) ∧ (w ≠ 32 ∨ off % 4 ≠ 0 ∨ 0x40 ≤ off)) ∨
    (∃ w off v, nextInput s = .host (.regWrite w off v) ∧ (w ≠ 32 ∨ off % 4 ≠ 0 ∨ 0x40 ≤ off)) ∨
    (∃ a, nextInput s = .host (.memRead a) ∧ s.memBytes ≤ a) ∨
    (∃ a v, nextInput s = .host (.memWrite a v) ∧ s.memBytes ≤ a)) ∧
  (∀ s : State, s.fault = none → step s = .fault .memWriteWhileBusy →
    ∃ a v, nextInput s = .host (.memWrite a v) ∧ s.busy = true ∧ inActiveRange s a = true) ∧
  (∀ s : State, s.fault = none → Inv s → step s = .fault .unwrittenRead →
    (nextInput s = .sequencer ∧ s.busy = true ∧ s.phase = .load ∧
      ∃ a, inActiveRange s a = true ∧ s.mem.read a = none) ∨
    (nextInput s = .host (.regWrite 32 0x00 0x00000004#32) ∧ s.busy = false ∧ s.keyLen.toNat ≤ 64 ∧
      ∃ a, s.keyAddr.toNat ≤ a ∧ a < s.keyAddr.toNat + s.keyLen.toNat ∧ s.mem.read a = none) ∨
    (∃ a, nextInput s = .host (.memRead a) ∧ s.mem.read a = none)) ∧
  ∀ (s : State) (r : Refusal), step s ≠ .refused r

/-! ### Whole-machine rules -/

/-- Every step keeps the invariant of the machine: MEM canonical and inside its size, ERR one of the five named codes,
DONE only without an error, and a running job well placed with its range inside MEM. -/
def Obligations.EveryStepKeepsTheInvariant : Prop :=
  ∀ s t : State, Inv s → step s = .next t → Inv t

/-- The invariant holds at power-on with every value of the parameters, and at the model's reset state. -/
def Obligations.PowerOnMeetsTheInvariant : Prop :=
  (∀ p : Params, Inv (State.powerOn p)) ∧ Inv State.reset

/-- 10_state.md R39 and R25: KBUF and KEY_VALID change only by a KEYLOAD (its accept or its KEYHASH end) and by reset. -/
def Obligations.OnlyKeyloadAndResetChangeTheKey : Prop :=
  ∀ s t : State, Inv s → step s = .next t → t.KBUF ≠ s.KBUF ∨ t.keyValid ≠ s.keyValid →
    nextInput s = .host .reset ∨
    (nextInput s = .host (.regWrite 32 0x00 0x00000004#32) ∧ s.busy = false) ∨
    (nextInput s = .sequencer ∧ s.busy = true ∧ s.op = .keyload ∧ s.stage = .keyhash ∧ s.phase = .add ∧
      t.busy = false ∧ t.keyValid = true)

/-- 10_state.md R36: H changes only by INIT, the start of an invocation of HASH, a long KEYLOAD or HMAC, the ADD step, and
reset. -/
def Obligations.HashStateHasFewWriters : Prop :=
  ∀ s t : State, step s = .next t → t.H ≠ s.H →
    nextInput s = .host .reset ∨
    (s.busy = false ∧ (nextInput s = .host (.regWrite 32 0x00 0x00000001#32) ∨
      nextInput s = .host (.regWrite 32 0x00 0x00000003#32) ∨
      (nextInput s = .host (.regWrite 32 0x00 0x00000004#32) ∧ 64 < s.keyLen.toNat) ∨
      nextInput s = .host (.regWrite 32 0x00 0x00000005#32))) ∨
    (nextInput s = .sequencer ∧ s.busy = true ∧ s.phase = .add)

/-- 10_state.md R26: OVERRUN is set exactly by a CMD write while busy, which is dropped, and cleared exactly by a CMD
write taken while idle and by reset; no other step changes it. -/
def Obligations.OverrunRecordsDroppedCommands : Prop :=
  ∀ s t : State, step s = .next t →
    (isCmdWrite (nextInput s) = true → t.overrun = s.busy) ∧
    (isCmdWrite (nextInput s) = true → s.busy = true → t = { s with inputs := s.inputs.tail, overrun := true }) ∧
    (nextInput s = .host .reset → t.overrun = false) ∧
    (isCmdWrite (nextInput s) = false → nextInput s ≠ .host .reset → t.overrun = s.overrun)

/-- 10_state.md R27: ERR changes only by a CMD write taken while idle and by reset; the sequencer's steps and a dropped
write leave it. -/
def Obligations.OnlyTakenCommandsChangeTheErrorCode : Prop :=
  ∀ s t : State, step s = .next t →
    (nextInput s = .host .reset → t.err = 0x0#4) ∧
    (nextInput s ≠ .host .reset → isCmdWrite (nextInput s) = false ∨ s.busy = true → t.err = s.err)

/-- 20_memory.md §5: the step that ends a job, other than reset, is the ADD step that writes all its results: H is the
add-back of V, lane by lane; KBUF and KEY_VALID are the key digest followed by zeros, and 1, where the job is a long KEYLOAD,
and stay where it is not; DONE is 1 and ERR 0. No later turn of the sequencer changes anything but the schedule. That the sequencer, which has no step while BUSY = 0, has an idle
turn there that changes nothing is the model's choice (log entry 2). -/
def Obligations.JobResultsAreWrittenWhenBusyFalls : Prop :=
  ∀ s t : State, Inv s → step s = .next t → s.busy = true → t.busy = false → nextInput s ≠ .host .reset →
    nextInput s = .sequencer ∧ s.phase = .add ∧ t.done = true ∧ t.err = 0x0#4 ∧
    (∀ (i : Nat) (h : i < 8), t.H[i] = s.H[i] + s.V[i]) ∧
    (s.stage = .keyhash → t.KBUF.toList = bytesBE t.H ++ List.replicate 32 0x00#8 ∧ t.keyValid = true) ∧
    (s.stage ≠ .keyhash → t.KBUF = s.KBUF ∧ t.keyValid = s.keyValid) ∧
    sequencerStep t = .next t

/-- 10_state.md R23 and 41_engine_commands.md §2: BUSY rises only by an accepted BLOCK, HASH, long KEYLOAD or HMAC, and
falls only by the ADD step of a last block and by reset. -/
def Obligations.BusyRisesAndFallsWithAJob : Prop :=
  ∀ s t : State, Inv s → step s = .next t →
    (s.busy = false → t.busy = true →
      ∃ c, nextInput s = .host (.regWrite 32 0x00 c) ∧ t.err = 0x0#4 ∧ t.phase = .load ∧ t.blk = 0 ∧
        (c = 0x00000002#32 ∨ c = 0x00000003#32 ∨ (c = 0x00000004#32 ∧ 64 < s.keyLen.toNat) ∨ c = 0x00000005#32)) ∧
    (s.busy = true → t.busy = false →
      nextInput s = .host .reset ∨
      (nextInput s = .sequencer ∧ s.phase = .add ∧ s.blk + 1 = s.nblk ∧ s.stage ≠ .inner))

/-- 41_engine_commands.md R152, 20_memory.md R62, 70_reset_and_hazards.md §3: no host access but reset disturbs a running
job: every register the job uses and every byte of its active range stay. -/
def Obligations.HostAccessesDoNotDisturbAJob : Prop :=
  ∀ (s t : State) (a : HostAccess),
    s.busy = true → a ≠ .reset → hostStep a s = .next t → SameJob s t

/-- 20_memory.md §5 (snapshot reading): the sequencer's step depends only on the job: on two states with the same job it
ends the same way. At the ADD that ends a job the two next states also agree in V, W, IDIG, op and the position, which the
spec leaves unspecified from there on: that these keep their values is the model's choice (log entry 13). -/
def Obligations.SequencerStepDependsOnlyOnTheJob : Prop :=
  ∀ s s' : State, Inv s → Inv s' → s.busy = true → SameJob s s' →
    (∀ t, sequencerStep s = .next t → ∃ t', sequencerStep s' = .next t' ∧ SameJob t t') ∧
    (∀ k, sequencerStep s = .fault k → sequencerStep s' = .fault k)

/-- 42_hmac_composer.md R200, 60_exceptions.md R235, R238: no host access but a CMD write tells KBUF, IDIG, W, V or the
sequencer position: on two states that differ only there it ends the same way, with the same value read, the same STATUS,
H and MEM. -/
def Obligations.HiddenRegistersCannotBeRead : Prop :=
  ∀ (s : State) (a : HostAccess) (k : Vector Byte 64) (d v : Vector Word 8) (w : Vector Word 64) (st : Stage)
    (ph : Phase) (L n b : Nat) (i : Fin 64), isCmdWrite (.host a) = false →
    (∀ t, hostStep a s = .next t → ∃ t', hostStep a (withHidden s k d v w st ph L n b i) = .next t' ∧
      t'.readData = t.readData ∧ statusWord t' = statusWord t ∧ t'.H = t.H ∧ t'.mem = t.mem) ∧
    (∀ f, hostStep a s = .fault f → hostStep a (withHidden s k d v w st ph L n b i) = .fault f)
end

