-- ==== Sys2Proof/Laws/State.lean ====
section
/-! SUPPORT. One lemma per field for each named update of the state; every one is true by unfolding the update. -/

namespace Sys2Proof.Machine

@[simp] theorem setOverrun_params (b : Bool) (s : State) : (setOverrun b s).params = s.params := rfl
@[simp] theorem setOverrun_msgAddr (b : Bool) (s : State) : (setOverrun b s).msgAddr = s.msgAddr := rfl
@[simp] theorem setOverrun_msgLen (b : Bool) (s : State) : (setOverrun b s).msgLen = s.msgLen := rfl
@[simp] theorem setOverrun_keyAddr (b : Bool) (s : State) : (setOverrun b s).keyAddr = s.keyAddr := rfl
@[simp] theorem setOverrun_keyLen (b : Bool) (s : State) : (setOverrun b s).keyLen = s.keyLen := rfl
@[simp] theorem setOverrun_busy (b : Bool) (s : State) : (setOverrun b s).busy = s.busy := rfl
@[simp] theorem setOverrun_done (b : Bool) (s : State) : (setOverrun b s).done = s.done := rfl
@[simp] theorem setOverrun_keyValid (b : Bool) (s : State) : (setOverrun b s).keyValid = s.keyValid := rfl
@[simp] theorem setOverrun_overrun (b : Bool) (s : State) : (setOverrun b s).overrun = b := rfl
@[simp] theorem setOverrun_err (b : Bool) (s : State) : (setOverrun b s).err = s.err := rfl
@[simp] theorem setOverrun_H (b : Bool) (s : State) : (setOverrun b s).H = s.H := rfl
@[simp] theorem setOverrun_V (b : Bool) (s : State) : (setOverrun b s).V = s.V := rfl
@[simp] theorem setOverrun_W (b : Bool) (s : State) : (setOverrun b s).W = s.W := rfl
@[simp] theorem setOverrun_KBUF (b : Bool) (s : State) : (setOverrun b s).KBUF = s.KBUF := rfl
@[simp] theorem setOverrun_IDIG (b : Bool) (s : State) : (setOverrun b s).IDIG = s.IDIG := rfl
@[simp] theorem setOverrun_op (b : Bool) (s : State) : (setOverrun b s).op = s.op := rfl
@[simp] theorem setOverrun_stage (b : Bool) (s : State) : (setOverrun b s).stage = s.stage := rfl
@[simp] theorem setOverrun_srcLen (b : Bool) (s : State) : (setOverrun b s).srcLen = s.srcLen := rfl
@[simp] theorem setOverrun_nblk (b : Bool) (s : State) : (setOverrun b s).nblk = s.nblk := rfl
@[simp] theorem setOverrun_blk (b : Bool) (s : State) : (setOverrun b s).blk = s.blk := rfl
@[simp] theorem setOverrun_phase (b : Bool) (s : State) : (setOverrun b s).phase = s.phase := rfl
@[simp] theorem setOverrun_t (b : Bool) (s : State) : (setOverrun b s).t = s.t := rfl
@[simp] theorem setOverrun_lMsgAddr (b : Bool) (s : State) : (setOverrun b s).lMsgAddr = s.lMsgAddr := rfl
@[simp] theorem setOverrun_lMsgLen (b : Bool) (s : State) : (setOverrun b s).lMsgLen = s.lMsgLen := rfl
@[simp] theorem setOverrun_lKeyAddr (b : Bool) (s : State) : (setOverrun b s).lKeyAddr = s.lKeyAddr := rfl
@[simp] theorem setOverrun_lKeyLen (b : Bool) (s : State) : (setOverrun b s).lKeyLen = s.lKeyLen := rfl
@[simp] theorem setOverrun_mem (b : Bool) (s : State) : (setOverrun b s).mem = s.mem := rfl
@[simp] theorem setOverrun_fault (b : Bool) (s : State) : (setOverrun b s).fault = s.fault := rfl
@[simp] theorem setOverrun_inputs (b : Bool) (s : State) : (setOverrun b s).inputs = s.inputs := rfl
@[simp] theorem setOverrun_readData (b : Bool) (s : State) : (setOverrun b s).readData = s.readData := rfl
@[simp] theorem setOverrun_draws (b : Bool) (s : State) : (setOverrun b s).draws = s.draws := rfl

@[simp] theorem reject_params (c : ErrCode) (s : State) : (reject c s).params = s.params := rfl
@[simp] theorem reject_msgAddr (c : ErrCode) (s : State) : (reject c s).msgAddr = s.msgAddr := rfl
@[simp] theorem reject_msgLen (c : ErrCode) (s : State) : (reject c s).msgLen = s.msgLen := rfl
@[simp] theorem reject_keyAddr (c : ErrCode) (s : State) : (reject c s).keyAddr = s.keyAddr := rfl
@[simp] theorem reject_keyLen (c : ErrCode) (s : State) : (reject c s).keyLen = s.keyLen := rfl
@[simp] theorem reject_busy (c : ErrCode) (s : State) : (reject c s).busy = s.busy := rfl
@[simp] theorem reject_done (c : ErrCode) (s : State) : (reject c s).done = false := rfl
@[simp] theorem reject_keyValid (c : ErrCode) (s : State) : (reject c s).keyValid = s.keyValid := rfl
@[simp] theorem reject_overrun (c : ErrCode) (s : State) : (reject c s).overrun = s.overrun := rfl
@[simp] theorem reject_err (c : ErrCode) (s : State) : (reject c s).err = c.code := rfl
@[simp] theorem reject_H (c : ErrCode) (s : State) : (reject c s).H = s.H := rfl
@[simp] theorem reject_V (c : ErrCode) (s : State) : (reject c s).V = s.V := rfl
@[simp] theorem reject_W (c : ErrCode) (s : State) : (reject c s).W = s.W := rfl
@[simp] theorem reject_KBUF (c : ErrCode) (s : State) : (reject c s).KBUF = s.KBUF := rfl
@[simp] theorem reject_IDIG (c : ErrCode) (s : State) : (reject c s).IDIG = s.IDIG := rfl
@[simp] theorem reject_op (c : ErrCode) (s : State) : (reject c s).op = s.op := rfl
@[simp] theorem reject_stage (c : ErrCode) (s : State) : (reject c s).stage = s.stage := rfl
@[simp] theorem reject_srcLen (c : ErrCode) (s : State) : (reject c s).srcLen = s.srcLen := rfl
@[simp] theorem reject_nblk (c : ErrCode) (s : State) : (reject c s).nblk = s.nblk := rfl
@[simp] theorem reject_blk (c : ErrCode) (s : State) : (reject c s).blk = s.blk := rfl
@[simp] theorem reject_phase (c : ErrCode) (s : State) : (reject c s).phase = s.phase := rfl
@[simp] theorem reject_t (c : ErrCode) (s : State) : (reject c s).t = s.t := rfl
@[simp] theorem reject_lMsgAddr (c : ErrCode) (s : State) : (reject c s).lMsgAddr = s.lMsgAddr := rfl
@[simp] theorem reject_lMsgLen (c : ErrCode) (s : State) : (reject c s).lMsgLen = s.lMsgLen := rfl
@[simp] theorem reject_lKeyAddr (c : ErrCode) (s : State) : (reject c s).lKeyAddr = s.lKeyAddr := rfl
@[simp] theorem reject_lKeyLen (c : ErrCode) (s : State) : (reject c s).lKeyLen = s.lKeyLen := rfl
@[simp] theorem reject_mem (c : ErrCode) (s : State) : (reject c s).mem = s.mem := rfl
@[simp] theorem reject_fault (c : ErrCode) (s : State) : (reject c s).fault = s.fault := rfl
@[simp] theorem reject_inputs (c : ErrCode) (s : State) : (reject c s).inputs = s.inputs := rfl
@[simp] theorem reject_readData (c : ErrCode) (s : State) : (reject c s).readData = s.readData := rfl
@[simp] theorem reject_draws (c : ErrCode) (s : State) : (reject c s).draws = s.draws := rfl

@[simp] theorem setDone_params (s : State) : (setDone s).params = s.params := rfl
@[simp] theorem setDone_msgAddr (s : State) : (setDone s).msgAddr = s.msgAddr := rfl
@[simp] theorem setDone_msgLen (s : State) : (setDone s).msgLen = s.msgLen := rfl
@[simp] theorem setDone_keyAddr (s : State) : (setDone s).keyAddr = s.keyAddr := rfl
@[simp] theorem setDone_keyLen (s : State) : (setDone s).keyLen = s.keyLen := rfl
@[simp] theorem setDone_busy (s : State) : (setDone s).busy = s.busy := rfl
@[simp] theorem setDone_done (s : State) : (setDone s).done = true := rfl
@[simp] theorem setDone_keyValid (s : State) : (setDone s).keyValid = s.keyValid := rfl
@[simp] theorem setDone_overrun (s : State) : (setDone s).overrun = s.overrun := rfl
@[simp] theorem setDone_err (s : State) : (setDone s).err = s.err := rfl
@[simp] theorem setDone_H (s : State) : (setDone s).H = s.H := rfl
@[simp] theorem setDone_V (s : State) : (setDone s).V = s.V := rfl
@[simp] theorem setDone_W (s : State) : (setDone s).W = s.W := rfl
@[simp] theorem setDone_KBUF (s : State) : (setDone s).KBUF = s.KBUF := rfl
@[simp] theorem setDone_IDIG (s : State) : (setDone s).IDIG = s.IDIG := rfl
@[simp] theorem setDone_op (s : State) : (setDone s).op = s.op := rfl
@[simp] theorem setDone_stage (s : State) : (setDone s).stage = s.stage := rfl
@[simp] theorem setDone_srcLen (s : State) : (setDone s).srcLen = s.srcLen := rfl
@[simp] theorem setDone_nblk (s : State) : (setDone s).nblk = s.nblk := rfl
@[simp] theorem setDone_blk (s : State) : (setDone s).blk = s.blk := rfl
@[simp] theorem setDone_phase (s : State) : (setDone s).phase = s.phase := rfl
@[simp] theorem setDone_t (s : State) : (setDone s).t = s.t := rfl
@[simp] theorem setDone_lMsgAddr (s : State) : (setDone s).lMsgAddr = s.lMsgAddr := rfl
@[simp] theorem setDone_lMsgLen (s : State) : (setDone s).lMsgLen = s.lMsgLen := rfl
@[simp] theorem setDone_lKeyAddr (s : State) : (setDone s).lKeyAddr = s.lKeyAddr := rfl
@[simp] theorem setDone_lKeyLen (s : State) : (setDone s).lKeyLen = s.lKeyLen := rfl
@[simp] theorem setDone_mem (s : State) : (setDone s).mem = s.mem := rfl
@[simp] theorem setDone_fault (s : State) : (setDone s).fault = s.fault := rfl
@[simp] theorem setDone_inputs (s : State) : (setDone s).inputs = s.inputs := rfl
@[simp] theorem setDone_readData (s : State) : (setDone s).readData = s.readData := rfl
@[simp] theorem setDone_draws (s : State) : (setDone s).draws = s.draws := rfl

@[simp] theorem complete_params (s : State) : (complete s).params = s.params := rfl
@[simp] theorem complete_msgAddr (s : State) : (complete s).msgAddr = s.msgAddr := rfl
@[simp] theorem complete_msgLen (s : State) : (complete s).msgLen = s.msgLen := rfl
@[simp] theorem complete_keyAddr (s : State) : (complete s).keyAddr = s.keyAddr := rfl
@[simp] theorem complete_keyLen (s : State) : (complete s).keyLen = s.keyLen := rfl
@[simp] theorem complete_busy (s : State) : (complete s).busy = false := rfl
@[simp] theorem complete_done (s : State) : (complete s).done = true := rfl
@[simp] theorem complete_keyValid (s : State) : (complete s).keyValid = s.keyValid := rfl
@[simp] theorem complete_overrun (s : State) : (complete s).overrun = s.overrun := rfl
@[simp] theorem complete_err (s : State) : (complete s).err = s.err := rfl
@[simp] theorem complete_H (s : State) : (complete s).H = s.H := rfl
@[simp] theorem complete_V (s : State) : (complete s).V = s.V := rfl
@[simp] theorem complete_W (s : State) : (complete s).W = s.W := rfl
@[simp] theorem complete_KBUF (s : State) : (complete s).KBUF = s.KBUF := rfl
@[simp] theorem complete_IDIG (s : State) : (complete s).IDIG = s.IDIG := rfl
@[simp] theorem complete_op (s : State) : (complete s).op = s.op := rfl
@[simp] theorem complete_stage (s : State) : (complete s).stage = s.stage := rfl
@[simp] theorem complete_srcLen (s : State) : (complete s).srcLen = s.srcLen := rfl
@[simp] theorem complete_nblk (s : State) : (complete s).nblk = s.nblk := rfl
@[simp] theorem complete_blk (s : State) : (complete s).blk = s.blk := rfl
@[simp] theorem complete_phase (s : State) : (complete s).phase = s.phase := rfl
@[simp] theorem complete_t (s : State) : (complete s).t = s.t := rfl
@[simp] theorem complete_lMsgAddr (s : State) : (complete s).lMsgAddr = s.lMsgAddr := rfl
@[simp] theorem complete_lMsgLen (s : State) : (complete s).lMsgLen = s.lMsgLen := rfl
@[simp] theorem complete_lKeyAddr (s : State) : (complete s).lKeyAddr = s.lKeyAddr := rfl
@[simp] theorem complete_lKeyLen (s : State) : (complete s).lKeyLen = s.lKeyLen := rfl
@[simp] theorem complete_mem (s : State) : (complete s).mem = s.mem := rfl
@[simp] theorem complete_fault (s : State) : (complete s).fault = s.fault := rfl
@[simp] theorem complete_inputs (s : State) : (complete s).inputs = s.inputs := rfl
@[simp] theorem complete_readData (s : State) : (complete s).readData = s.readData := rfl
@[simp] theorem complete_draws (s : State) : (complete s).draws = s.draws := rfl

@[simp] theorem latch_params (s : State) : (latch s).params = s.params := rfl
@[simp] theorem latch_msgAddr (s : State) : (latch s).msgAddr = s.msgAddr := rfl
@[simp] theorem latch_msgLen (s : State) : (latch s).msgLen = s.msgLen := rfl
@[simp] theorem latch_keyAddr (s : State) : (latch s).keyAddr = s.keyAddr := rfl
@[simp] theorem latch_keyLen (s : State) : (latch s).keyLen = s.keyLen := rfl
@[simp] theorem latch_busy (s : State) : (latch s).busy = s.busy := rfl
@[simp] theorem latch_done (s : State) : (latch s).done = s.done := rfl
@[simp] theorem latch_keyValid (s : State) : (latch s).keyValid = s.keyValid := rfl
@[simp] theorem latch_overrun (s : State) : (latch s).overrun = s.overrun := rfl
@[simp] theorem latch_err (s : State) : (latch s).err = s.err := rfl
@[simp] theorem latch_H (s : State) : (latch s).H = s.H := rfl
@[simp] theorem latch_V (s : State) : (latch s).V = s.V := rfl
@[simp] theorem latch_W (s : State) : (latch s).W = s.W := rfl
@[simp] theorem latch_KBUF (s : State) : (latch s).KBUF = s.KBUF := rfl
@[simp] theorem latch_IDIG (s : State) : (latch s).IDIG = s.IDIG := rfl
@[simp] theorem latch_op (s : State) : (latch s).op = s.op := rfl
@[simp] theorem latch_stage (s : State) : (latch s).stage = s.stage := rfl
@[simp] theorem latch_srcLen (s : State) : (latch s).srcLen = s.srcLen := rfl
@[simp] theorem latch_nblk (s : State) : (latch s).nblk = s.nblk := rfl
@[simp] theorem latch_blk (s : State) : (latch s).blk = s.blk := rfl
@[simp] theorem latch_phase (s : State) : (latch s).phase = s.phase := rfl
@[simp] theorem latch_t (s : State) : (latch s).t = s.t := rfl
@[simp] theorem latch_lMsgAddr (s : State) : (latch s).lMsgAddr = s.msgAddr.toNat := rfl
@[simp] theorem latch_lMsgLen (s : State) : (latch s).lMsgLen = s.msgLen.toNat := rfl
@[simp] theorem latch_lKeyAddr (s : State) : (latch s).lKeyAddr = s.keyAddr.toNat := rfl
@[simp] theorem latch_lKeyLen (s : State) : (latch s).lKeyLen = s.keyLen.toNat := rfl
@[simp] theorem latch_mem (s : State) : (latch s).mem = s.mem := rfl
@[simp] theorem latch_fault (s : State) : (latch s).fault = s.fault := rfl
@[simp] theorem latch_inputs (s : State) : (latch s).inputs = s.inputs := rfl
@[simp] theorem latch_readData (s : State) : (latch s).readData = s.readData := rfl
@[simp] theorem latch_draws (s : State) : (latch s).draws = s.draws := rfl

@[simp] theorem accept_params (o : Instr) (s : State) : (accept o s).params = s.params := rfl
@[simp] theorem accept_msgAddr (o : Instr) (s : State) : (accept o s).msgAddr = s.msgAddr := rfl
@[simp] theorem accept_msgLen (o : Instr) (s : State) : (accept o s).msgLen = s.msgLen := rfl
@[simp] theorem accept_keyAddr (o : Instr) (s : State) : (accept o s).keyAddr = s.keyAddr := rfl
@[simp] theorem accept_keyLen (o : Instr) (s : State) : (accept o s).keyLen = s.keyLen := rfl
@[simp] theorem accept_busy (o : Instr) (s : State) : (accept o s).busy = s.busy := rfl
@[simp] theorem accept_done (o : Instr) (s : State) : (accept o s).done = false := rfl
@[simp] theorem accept_keyValid (o : Instr) (s : State) : (accept o s).keyValid = s.keyValid := rfl
@[simp] theorem accept_overrun (o : Instr) (s : State) : (accept o s).overrun = s.overrun := rfl
@[simp] theorem accept_err (o : Instr) (s : State) : (accept o s).err = 0#4 := rfl
@[simp] theorem accept_H (o : Instr) (s : State) : (accept o s).H = s.H := rfl
@[simp] theorem accept_V (o : Instr) (s : State) : (accept o s).V = s.V := rfl
@[simp] theorem accept_W (o : Instr) (s : State) : (accept o s).W = s.W := rfl
@[simp] theorem accept_KBUF (o : Instr) (s : State) : (accept o s).KBUF = s.KBUF := rfl
@[simp] theorem accept_IDIG (o : Instr) (s : State) : (accept o s).IDIG = s.IDIG := rfl
@[simp] theorem accept_op (o : Instr) (s : State) : (accept o s).op = o := rfl
@[simp] theorem accept_stage (o : Instr) (s : State) : (accept o s).stage = s.stage := rfl
@[simp] theorem accept_srcLen (o : Instr) (s : State) : (accept o s).srcLen = s.srcLen := rfl
@[simp] theorem accept_nblk (o : Instr) (s : State) : (accept o s).nblk = s.nblk := rfl
@[simp] theorem accept_blk (o : Instr) (s : State) : (accept o s).blk = s.blk := rfl
@[simp] theorem accept_phase (o : Instr) (s : State) : (accept o s).phase = s.phase := rfl
@[simp] theorem accept_t (o : Instr) (s : State) : (accept o s).t = s.t := rfl
@[simp] theorem accept_lMsgAddr (o : Instr) (s : State) : (accept o s).lMsgAddr = s.msgAddr.toNat := rfl
@[simp] theorem accept_lMsgLen (o : Instr) (s : State) : (accept o s).lMsgLen = s.msgLen.toNat := rfl
@[simp] theorem accept_lKeyAddr (o : Instr) (s : State) : (accept o s).lKeyAddr = s.keyAddr.toNat := rfl
@[simp] theorem accept_lKeyLen (o : Instr) (s : State) : (accept o s).lKeyLen = s.keyLen.toNat := rfl
@[simp] theorem accept_mem (o : Instr) (s : State) : (accept o s).mem = s.mem := rfl
@[simp] theorem accept_fault (o : Instr) (s : State) : (accept o s).fault = s.fault := rfl
@[simp] theorem accept_inputs (o : Instr) (s : State) : (accept o s).inputs = s.inputs := rfl
@[simp] theorem accept_readData (o : Instr) (s : State) : (accept o s).readData = s.readData := rfl
@[simp] theorem accept_draws (o : Instr) (s : State) : (accept o s).draws = s.draws := rfl

@[simp] theorem acceptedAs_params (o : Instr) (s : State) : (acceptedAs o s).params = s.params := rfl
@[simp] theorem acceptedAs_msgAddr (o : Instr) (s : State) : (acceptedAs o s).msgAddr = s.msgAddr := rfl
@[simp] theorem acceptedAs_msgLen (o : Instr) (s : State) : (acceptedAs o s).msgLen = s.msgLen := rfl
@[simp] theorem acceptedAs_keyAddr (o : Instr) (s : State) : (acceptedAs o s).keyAddr = s.keyAddr := rfl
@[simp] theorem acceptedAs_keyLen (o : Instr) (s : State) : (acceptedAs o s).keyLen = s.keyLen := rfl
@[simp] theorem acceptedAs_busy (o : Instr) (s : State) : (acceptedAs o s).busy = s.busy := rfl
@[simp] theorem acceptedAs_done (o : Instr) (s : State) : (acceptedAs o s).done = false := rfl
@[simp] theorem acceptedAs_keyValid (o : Instr) (s : State) : (acceptedAs o s).keyValid = s.keyValid := rfl
@[simp] theorem acceptedAs_overrun (o : Instr) (s : State) : (acceptedAs o s).overrun = false := rfl
@[simp] theorem acceptedAs_err (o : Instr) (s : State) : (acceptedAs o s).err = 0#4 := rfl
@[simp] theorem acceptedAs_H (o : Instr) (s : State) : (acceptedAs o s).H = s.H := rfl
@[simp] theorem acceptedAs_V (o : Instr) (s : State) : (acceptedAs o s).V = s.V := rfl
@[simp] theorem acceptedAs_W (o : Instr) (s : State) : (acceptedAs o s).W = s.W := rfl
@[simp] theorem acceptedAs_KBUF (o : Instr) (s : State) : (acceptedAs o s).KBUF = s.KBUF := rfl
@[simp] theorem acceptedAs_IDIG (o : Instr) (s : State) : (acceptedAs o s).IDIG = s.IDIG := rfl
@[simp] theorem acceptedAs_op (o : Instr) (s : State) : (acceptedAs o s).op = o := rfl
@[simp] theorem acceptedAs_stage (o : Instr) (s : State) : (acceptedAs o s).stage = s.stage := rfl
@[simp] theorem acceptedAs_srcLen (o : Instr) (s : State) : (acceptedAs o s).srcLen = s.srcLen := rfl
@[simp] theorem acceptedAs_nblk (o : Instr) (s : State) : (acceptedAs o s).nblk = s.nblk := rfl
@[simp] theorem acceptedAs_blk (o : Instr) (s : State) : (acceptedAs o s).blk = s.blk := rfl
@[simp] theorem acceptedAs_phase (o : Instr) (s : State) : (acceptedAs o s).phase = s.phase := rfl
@[simp] theorem acceptedAs_t (o : Instr) (s : State) : (acceptedAs o s).t = s.t := rfl
@[simp] theorem acceptedAs_lMsgAddr (o : Instr) (s : State) : (acceptedAs o s).lMsgAddr = s.msgAddr.toNat := rfl
@[simp] theorem acceptedAs_lMsgLen (o : Instr) (s : State) : (acceptedAs o s).lMsgLen = s.msgLen.toNat := rfl
@[simp] theorem acceptedAs_lKeyAddr (o : Instr) (s : State) : (acceptedAs o s).lKeyAddr = s.keyAddr.toNat := rfl
@[simp] theorem acceptedAs_lKeyLen (o : Instr) (s : State) : (acceptedAs o s).lKeyLen = s.keyLen.toNat := rfl
@[simp] theorem acceptedAs_mem (o : Instr) (s : State) : (acceptedAs o s).mem = s.mem := rfl
@[simp] theorem acceptedAs_fault (o : Instr) (s : State) : (acceptedAs o s).fault = s.fault := rfl
@[simp] theorem acceptedAs_inputs (o : Instr) (s : State) : (acceptedAs o s).inputs = s.inputs := rfl
@[simp] theorem acceptedAs_readData (o : Instr) (s : State) : (acceptedAs o s).readData = s.readData := rfl
@[simp] theorem acceptedAs_draws (o : Instr) (s : State) : (acceptedAs o s).draws = s.draws := rfl

@[simp] theorem rejectedWith_params (c : BitVec 4) (s : State) : (rejectedWith c s).params = s.params := rfl
@[simp] theorem rejectedWith_msgAddr (c : BitVec 4) (s : State) : (rejectedWith c s).msgAddr = s.msgAddr := rfl
@[simp] theorem rejectedWith_msgLen (c : BitVec 4) (s : State) : (rejectedWith c s).msgLen = s.msgLen := rfl
@[simp] theorem rejectedWith_keyAddr (c : BitVec 4) (s : State) : (rejectedWith c s).keyAddr = s.keyAddr := rfl
@[simp] theorem rejectedWith_keyLen (c : BitVec 4) (s : State) : (rejectedWith c s).keyLen = s.keyLen := rfl
@[simp] theorem rejectedWith_busy (c : BitVec 4) (s : State) : (rejectedWith c s).busy = s.busy := rfl
@[simp] theorem rejectedWith_done (c : BitVec 4) (s : State) : (rejectedWith c s).done = false := rfl
@[simp] theorem rejectedWith_keyValid (c : BitVec 4) (s : State) : (rejectedWith c s).keyValid = s.keyValid := rfl
@[simp] theorem rejectedWith_overrun (c : BitVec 4) (s : State) : (rejectedWith c s).overrun = false := rfl
@[simp] theorem rejectedWith_err (c : BitVec 4) (s : State) : (rejectedWith c s).err = c := rfl
@[simp] theorem rejectedWith_H (c : BitVec 4) (s : State) : (rejectedWith c s).H = s.H := rfl
@[simp] theorem rejectedWith_V (c : BitVec 4) (s : State) : (rejectedWith c s).V = s.V := rfl
@[simp] theorem rejectedWith_W (c : BitVec 4) (s : State) : (rejectedWith c s).W = s.W := rfl
@[simp] theorem rejectedWith_KBUF (c : BitVec 4) (s : State) : (rejectedWith c s).KBUF = s.KBUF := rfl
@[simp] theorem rejectedWith_IDIG (c : BitVec 4) (s : State) : (rejectedWith c s).IDIG = s.IDIG := rfl
@[simp] theorem rejectedWith_op (c : BitVec 4) (s : State) : (rejectedWith c s).op = s.op := rfl
@[simp] theorem rejectedWith_stage (c : BitVec 4) (s : State) : (rejectedWith c s).stage = s.stage := rfl
@[simp] theorem rejectedWith_srcLen (c : BitVec 4) (s : State) : (rejectedWith c s).srcLen = s.srcLen := rfl
@[simp] theorem rejectedWith_nblk (c : BitVec 4) (s : State) : (rejectedWith c s).nblk = s.nblk := rfl
@[simp] theorem rejectedWith_blk (c : BitVec 4) (s : State) : (rejectedWith c s).blk = s.blk := rfl
@[simp] theorem rejectedWith_phase (c : BitVec 4) (s : State) : (rejectedWith c s).phase = s.phase := rfl
@[simp] theorem rejectedWith_t (c : BitVec 4) (s : State) : (rejectedWith c s).t = s.t := rfl
@[simp] theorem rejectedWith_lMsgAddr (c : BitVec 4) (s : State) : (rejectedWith c s).lMsgAddr = s.lMsgAddr := rfl
@[simp] theorem rejectedWith_lMsgLen (c : BitVec 4) (s : State) : (rejectedWith c s).lMsgLen = s.lMsgLen := rfl
@[simp] theorem rejectedWith_lKeyAddr (c : BitVec 4) (s : State) : (rejectedWith c s).lKeyAddr = s.lKeyAddr := rfl
@[simp] theorem rejectedWith_lKeyLen (c : BitVec 4) (s : State) : (rejectedWith c s).lKeyLen = s.lKeyLen := rfl
@[simp] theorem rejectedWith_mem (c : BitVec 4) (s : State) : (rejectedWith c s).mem = s.mem := rfl
@[simp] theorem rejectedWith_fault (c : BitVec 4) (s : State) : (rejectedWith c s).fault = s.fault := rfl
@[simp] theorem rejectedWith_inputs (c : BitVec 4) (s : State) : (rejectedWith c s).inputs = s.inputs := rfl
@[simp] theorem rejectedWith_readData (c : BitVec 4) (s : State) : (rejectedWith c s).readData = s.readData := rfl
@[simp] theorem rejectedWith_draws (c : BitVec 4) (s : State) : (rejectedWith c s).draws = s.draws := rfl

@[simp] theorem startInvocation_params (st : Stage) (L : Nat) (s : State) : (startInvocation st L s).params = s.params := rfl
@[simp] theorem startInvocation_msgAddr (st : Stage) (L : Nat) (s : State) : (startInvocation st L s).msgAddr = s.msgAddr := rfl
@[simp] theorem startInvocation_msgLen (st : Stage) (L : Nat) (s : State) : (startInvocation st L s).msgLen = s.msgLen := rfl
@[simp] theorem startInvocation_keyAddr (st : Stage) (L : Nat) (s : State) : (startInvocation st L s).keyAddr = s.keyAddr := rfl
@[simp] theorem startInvocation_keyLen (st : Stage) (L : Nat) (s : State) : (startInvocation st L s).keyLen = s.keyLen := rfl
@[simp] theorem startInvocation_busy (st : Stage) (L : Nat) (s : State) : (startInvocation st L s).busy = true := rfl
@[simp] theorem startInvocation_done (st : Stage) (L : Nat) (s : State) : (startInvocation st L s).done = s.done := rfl
@[simp] theorem startInvocation_keyValid (st : Stage) (L : Nat) (s : State) : (startInvocation st L s).keyValid = s.keyValid := rfl
@[simp] theorem startInvocation_overrun (st : Stage) (L : Nat) (s : State) : (startInvocation st L s).overrun = s.overrun := rfl
@[simp] theorem startInvocation_err (st : Stage) (L : Nat) (s : State) : (startInvocation st L s).err = s.err := rfl
@[simp] theorem startInvocation_H (st : Stage) (L : Nat) (s : State) : (startInvocation st L s).H = if st = .block then s.H else IV := rfl
@[simp] theorem startInvocation_V (st : Stage) (L : Nat) (s : State) : (startInvocation st L s).V = s.V := rfl
@[simp] theorem startInvocation_W (st : Stage) (L : Nat) (s : State) : (startInvocation st L s).W = s.W := rfl
@[simp] theorem startInvocation_KBUF (st : Stage) (L : Nat) (s : State) : (startInvocation st L s).KBUF = s.KBUF := rfl
@[simp] theorem startInvocation_IDIG (st : Stage) (L : Nat) (s : State) : (startInvocation st L s).IDIG = s.IDIG := rfl
@[simp] theorem startInvocation_op (st : Stage) (L : Nat) (s : State) : (startInvocation st L s).op = s.op := rfl
@[simp] theorem startInvocation_stage (st : Stage) (L : Nat) (s : State) : (startInvocation st L s).stage = st := rfl
@[simp] theorem startInvocation_srcLen (st : Stage) (L : Nat) (s : State) : (startInvocation st L s).srcLen = L := rfl
@[simp] theorem startInvocation_nblk (st : Stage) (L : Nat) (s : State) : (startInvocation st L s).nblk = if st = .block then 1 else numBlocks L := rfl
@[simp] theorem startInvocation_blk (st : Stage) (L : Nat) (s : State) : (startInvocation st L s).blk = 0 := rfl
@[simp] theorem startInvocation_phase (st : Stage) (L : Nat) (s : State) : (startInvocation st L s).phase = .load := rfl
@[simp] theorem startInvocation_t (st : Stage) (L : Nat) (s : State) : (startInvocation st L s).t = s.t := rfl
@[simp] theorem startInvocation_lMsgAddr (st : Stage) (L : Nat) (s : State) : (startInvocation st L s).lMsgAddr = s.lMsgAddr := rfl
@[simp] theorem startInvocation_lMsgLen (st : Stage) (L : Nat) (s : State) : (startInvocation st L s).lMsgLen = s.lMsgLen := rfl
@[simp] theorem startInvocation_lKeyAddr (st : Stage) (L : Nat) (s : State) : (startInvocation st L s).lKeyAddr = s.lKeyAddr := rfl
@[simp] theorem startInvocation_lKeyLen (st : Stage) (L : Nat) (s : State) : (startInvocation st L s).lKeyLen = s.lKeyLen := rfl
@[simp] theorem startInvocation_mem (st : Stage) (L : Nat) (s : State) : (startInvocation st L s).mem = s.mem := rfl
@[simp] theorem startInvocation_fault (st : Stage) (L : Nat) (s : State) : (startInvocation st L s).fault = s.fault := rfl
@[simp] theorem startInvocation_inputs (st : Stage) (L : Nat) (s : State) : (startInvocation st L s).inputs = s.inputs := rfl
@[simp] theorem startInvocation_readData (st : Stage) (L : Nat) (s : State) : (startInvocation st L s).readData = s.readData := rfl
@[simp] theorem startInvocation_draws (st : Stage) (L : Nat) (s : State) : (startInvocation st L s).draws = s.draws := rfl

@[simp] theorem loadBlock_params (B : Vector Byte 64) (s : State) : (loadBlock B s).params = s.params := rfl
@[simp] theorem loadBlock_msgAddr (B : Vector Byte 64) (s : State) : (loadBlock B s).msgAddr = s.msgAddr := rfl
@[simp] theorem loadBlock_msgLen (B : Vector Byte 64) (s : State) : (loadBlock B s).msgLen = s.msgLen := rfl
@[simp] theorem loadBlock_keyAddr (B : Vector Byte 64) (s : State) : (loadBlock B s).keyAddr = s.keyAddr := rfl
@[simp] theorem loadBlock_keyLen (B : Vector Byte 64) (s : State) : (loadBlock B s).keyLen = s.keyLen := rfl
@[simp] theorem loadBlock_busy (B : Vector Byte 64) (s : State) : (loadBlock B s).busy = s.busy := rfl
@[simp] theorem loadBlock_done (B : Vector Byte 64) (s : State) : (loadBlock B s).done = s.done := rfl
@[simp] theorem loadBlock_keyValid (B : Vector Byte 64) (s : State) : (loadBlock B s).keyValid = s.keyValid := rfl
@[simp] theorem loadBlock_overrun (B : Vector Byte 64) (s : State) : (loadBlock B s).overrun = s.overrun := rfl
@[simp] theorem loadBlock_err (B : Vector Byte 64) (s : State) : (loadBlock B s).err = s.err := rfl
@[simp] theorem loadBlock_H (B : Vector Byte 64) (s : State) : (loadBlock B s).H = s.H := rfl
@[simp] theorem loadBlock_V (B : Vector Byte 64) (s : State) : (loadBlock B s).V = s.H := rfl
@[simp] theorem loadBlock_W (B : Vector Byte 64) (s : State) : (loadBlock B s).W = loadWords s.W B := rfl
@[simp] theorem loadBlock_KBUF (B : Vector Byte 64) (s : State) : (loadBlock B s).KBUF = s.KBUF := rfl
@[simp] theorem loadBlock_IDIG (B : Vector Byte 64) (s : State) : (loadBlock B s).IDIG = s.IDIG := rfl
@[simp] theorem loadBlock_op (B : Vector Byte 64) (s : State) : (loadBlock B s).op = s.op := rfl
@[simp] theorem loadBlock_stage (B : Vector Byte 64) (s : State) : (loadBlock B s).stage = s.stage := rfl
@[simp] theorem loadBlock_srcLen (B : Vector Byte 64) (s : State) : (loadBlock B s).srcLen = s.srcLen := rfl
@[simp] theorem loadBlock_nblk (B : Vector Byte 64) (s : State) : (loadBlock B s).nblk = s.nblk := rfl
@[simp] theorem loadBlock_blk (B : Vector Byte 64) (s : State) : (loadBlock B s).blk = s.blk := rfl
@[simp] theorem loadBlock_phase (B : Vector Byte 64) (s : State) : (loadBlock B s).phase = .sched := rfl
@[simp] theorem loadBlock_t (B : Vector Byte 64) (s : State) : (loadBlock B s).t = 16 := rfl
@[simp] theorem loadBlock_lMsgAddr (B : Vector Byte 64) (s : State) : (loadBlock B s).lMsgAddr = s.lMsgAddr := rfl
@[simp] theorem loadBlock_lMsgLen (B : Vector Byte 64) (s : State) : (loadBlock B s).lMsgLen = s.lMsgLen := rfl
@[simp] theorem loadBlock_lKeyAddr (B : Vector Byte 64) (s : State) : (loadBlock B s).lKeyAddr = s.lKeyAddr := rfl
@[simp] theorem loadBlock_lKeyLen (B : Vector Byte 64) (s : State) : (loadBlock B s).lKeyLen = s.lKeyLen := rfl
@[simp] theorem loadBlock_mem (B : Vector Byte 64) (s : State) : (loadBlock B s).mem = s.mem := rfl
@[simp] theorem loadBlock_fault (B : Vector Byte 64) (s : State) : (loadBlock B s).fault = s.fault := rfl
@[simp] theorem loadBlock_inputs (B : Vector Byte 64) (s : State) : (loadBlock B s).inputs = s.inputs := rfl
@[simp] theorem loadBlock_readData (B : Vector Byte 64) (s : State) : (loadBlock B s).readData = s.readData := rfl
@[simp] theorem loadBlock_draws (B : Vector Byte 64) (s : State) : (loadBlock B s).draws = s.draws := rfl

@[simp] theorem returnRead_params (d : ReadData) (s : State) : (returnRead d s).params = s.params := rfl
@[simp] theorem returnRead_msgAddr (d : ReadData) (s : State) : (returnRead d s).msgAddr = s.msgAddr := rfl
@[simp] theorem returnRead_msgLen (d : ReadData) (s : State) : (returnRead d s).msgLen = s.msgLen := rfl
@[simp] theorem returnRead_keyAddr (d : ReadData) (s : State) : (returnRead d s).keyAddr = s.keyAddr := rfl
@[simp] theorem returnRead_keyLen (d : ReadData) (s : State) : (returnRead d s).keyLen = s.keyLen := rfl
@[simp] theorem returnRead_busy (d : ReadData) (s : State) : (returnRead d s).busy = s.busy := rfl
@[simp] theorem returnRead_done (d : ReadData) (s : State) : (returnRead d s).done = s.done := rfl
@[simp] theorem returnRead_keyValid (d : ReadData) (s : State) : (returnRead d s).keyValid = s.keyValid := rfl
@[simp] theorem returnRead_overrun (d : ReadData) (s : State) : (returnRead d s).overrun = s.overrun := rfl
@[simp] theorem returnRead_err (d : ReadData) (s : State) : (returnRead d s).err = s.err := rfl
@[simp] theorem returnRead_H (d : ReadData) (s : State) : (returnRead d s).H = s.H := rfl
@[simp] theorem returnRead_V (d : ReadData) (s : State) : (returnRead d s).V = s.V := rfl
@[simp] theorem returnRead_W (d : ReadData) (s : State) : (returnRead d s).W = s.W := rfl
@[simp] theorem returnRead_KBUF (d : ReadData) (s : State) : (returnRead d s).KBUF = s.KBUF := rfl
@[simp] theorem returnRead_IDIG (d : ReadData) (s : State) : (returnRead d s).IDIG = s.IDIG := rfl
@[simp] theorem returnRead_op (d : ReadData) (s : State) : (returnRead d s).op = s.op := rfl
@[simp] theorem returnRead_stage (d : ReadData) (s : State) : (returnRead d s).stage = s.stage := rfl
@[simp] theorem returnRead_srcLen (d : ReadData) (s : State) : (returnRead d s).srcLen = s.srcLen := rfl
@[simp] theorem returnRead_nblk (d : ReadData) (s : State) : (returnRead d s).nblk = s.nblk := rfl
@[simp] theorem returnRead_blk (d : ReadData) (s : State) : (returnRead d s).blk = s.blk := rfl
@[simp] theorem returnRead_phase (d : ReadData) (s : State) : (returnRead d s).phase = s.phase := rfl
@[simp] theorem returnRead_t (d : ReadData) (s : State) : (returnRead d s).t = s.t := rfl
@[simp] theorem returnRead_lMsgAddr (d : ReadData) (s : State) : (returnRead d s).lMsgAddr = s.lMsgAddr := rfl
@[simp] theorem returnRead_lMsgLen (d : ReadData) (s : State) : (returnRead d s).lMsgLen = s.lMsgLen := rfl
@[simp] theorem returnRead_lKeyAddr (d : ReadData) (s : State) : (returnRead d s).lKeyAddr = s.lKeyAddr := rfl
@[simp] theorem returnRead_lKeyLen (d : ReadData) (s : State) : (returnRead d s).lKeyLen = s.lKeyLen := rfl
@[simp] theorem returnRead_mem (d : ReadData) (s : State) : (returnRead d s).mem = s.mem := rfl
@[simp] theorem returnRead_fault (d : ReadData) (s : State) : (returnRead d s).fault = s.fault := rfl
@[simp] theorem returnRead_inputs (d : ReadData) (s : State) : (returnRead d s).inputs = s.inputs := rfl
@[simp] theorem returnRead_readData (d : ReadData) (s : State) : (returnRead d s).readData = some d := rfl
@[simp] theorem returnRead_draws (d : ReadData) (s : State) : (returnRead d s).draws = s.draws := rfl

@[simp] theorem returnDraw_params (s : State) : (returnDraw s).params = s.params := rfl
@[simp] theorem returnDraw_msgAddr (s : State) : (returnDraw s).msgAddr = s.msgAddr := rfl
@[simp] theorem returnDraw_msgLen (s : State) : (returnDraw s).msgLen = s.msgLen := rfl
@[simp] theorem returnDraw_keyAddr (s : State) : (returnDraw s).keyAddr = s.keyAddr := rfl
@[simp] theorem returnDraw_keyLen (s : State) : (returnDraw s).keyLen = s.keyLen := rfl
@[simp] theorem returnDraw_busy (s : State) : (returnDraw s).busy = s.busy := rfl
@[simp] theorem returnDraw_done (s : State) : (returnDraw s).done = s.done := rfl
@[simp] theorem returnDraw_keyValid (s : State) : (returnDraw s).keyValid = s.keyValid := rfl
@[simp] theorem returnDraw_overrun (s : State) : (returnDraw s).overrun = s.overrun := rfl
@[simp] theorem returnDraw_err (s : State) : (returnDraw s).err = s.err := rfl
@[simp] theorem returnDraw_H (s : State) : (returnDraw s).H = s.H := rfl
@[simp] theorem returnDraw_V (s : State) : (returnDraw s).V = s.V := rfl
@[simp] theorem returnDraw_W (s : State) : (returnDraw s).W = s.W := rfl
@[simp] theorem returnDraw_KBUF (s : State) : (returnDraw s).KBUF = s.KBUF := rfl
@[simp] theorem returnDraw_IDIG (s : State) : (returnDraw s).IDIG = s.IDIG := rfl
@[simp] theorem returnDraw_op (s : State) : (returnDraw s).op = s.op := rfl
@[simp] theorem returnDraw_stage (s : State) : (returnDraw s).stage = s.stage := rfl
@[simp] theorem returnDraw_srcLen (s : State) : (returnDraw s).srcLen = s.srcLen := rfl
@[simp] theorem returnDraw_nblk (s : State) : (returnDraw s).nblk = s.nblk := rfl
@[simp] theorem returnDraw_blk (s : State) : (returnDraw s).blk = s.blk := rfl
@[simp] theorem returnDraw_phase (s : State) : (returnDraw s).phase = s.phase := rfl
@[simp] theorem returnDraw_t (s : State) : (returnDraw s).t = s.t := rfl
@[simp] theorem returnDraw_lMsgAddr (s : State) : (returnDraw s).lMsgAddr = s.lMsgAddr := rfl
@[simp] theorem returnDraw_lMsgLen (s : State) : (returnDraw s).lMsgLen = s.lMsgLen := rfl
@[simp] theorem returnDraw_lKeyAddr (s : State) : (returnDraw s).lKeyAddr = s.lKeyAddr := rfl
@[simp] theorem returnDraw_lKeyLen (s : State) : (returnDraw s).lKeyLen = s.lKeyLen := rfl
@[simp] theorem returnDraw_mem (s : State) : (returnDraw s).mem = s.mem := rfl
@[simp] theorem returnDraw_fault (s : State) : (returnDraw s).fault = s.fault := rfl
@[simp] theorem returnDraw_inputs (s : State) : (returnDraw s).inputs = s.inputs := rfl
@[simp] theorem returnDraw_readData (s : State) : (returnDraw s).readData = some (.word (Config.freeWord s.draws)) := rfl
@[simp] theorem returnDraw_draws (s : State) : (returnDraw s).draws = s.draws + 1 := rfl

@[simp] theorem hostReset_params (s : State) : (hostReset s).params = s.params := rfl
@[simp] theorem hostReset_msgAddr (s : State) : (hostReset s).msgAddr = 0#32 := rfl
@[simp] theorem hostReset_msgLen (s : State) : (hostReset s).msgLen = 0#32 := rfl
@[simp] theorem hostReset_keyAddr (s : State) : (hostReset s).keyAddr = 0#32 := rfl
@[simp] theorem hostReset_keyLen (s : State) : (hostReset s).keyLen = 0#32 := rfl
@[simp] theorem hostReset_busy (s : State) : (hostReset s).busy = false := rfl
@[simp] theorem hostReset_done (s : State) : (hostReset s).done = false := rfl
@[simp] theorem hostReset_keyValid (s : State) : (hostReset s).keyValid = false := rfl
@[simp] theorem hostReset_overrun (s : State) : (hostReset s).overrun = false := rfl
@[simp] theorem hostReset_err (s : State) : (hostReset s).err = 0#4 := rfl
@[simp] theorem hostReset_H (s : State) : (hostReset s).H = IV := rfl
@[simp] theorem hostReset_V (s : State) : (hostReset s).V = Vector.replicate 8 0#32 := rfl
@[simp] theorem hostReset_W (s : State) : (hostReset s).W = Vector.replicate 64 0#32 := rfl
@[simp] theorem hostReset_KBUF (s : State) : (hostReset s).KBUF = Vector.replicate 64 0#8 := rfl
@[simp] theorem hostReset_IDIG (s : State) : (hostReset s).IDIG = Vector.replicate 8 0#32 := rfl
@[simp] theorem hostReset_op (s : State) : (hostReset s).op = .nop := rfl
@[simp] theorem hostReset_stage (s : State) : (hostReset s).stage = .block := rfl
@[simp] theorem hostReset_srcLen (s : State) : (hostReset s).srcLen = 0 := rfl
@[simp] theorem hostReset_nblk (s : State) : (hostReset s).nblk = 0 := rfl
@[simp] theorem hostReset_blk (s : State) : (hostReset s).blk = 0 := rfl
@[simp] theorem hostReset_phase (s : State) : (hostReset s).phase = .load := rfl
@[simp] theorem hostReset_t (s : State) : (hostReset s).t = 0 := rfl
@[simp] theorem hostReset_lMsgAddr (s : State) : (hostReset s).lMsgAddr = 0 := rfl
@[simp] theorem hostReset_lMsgLen (s : State) : (hostReset s).lMsgLen = 0 := rfl
@[simp] theorem hostReset_lKeyAddr (s : State) : (hostReset s).lKeyAddr = 0 := rfl
@[simp] theorem hostReset_lKeyLen (s : State) : (hostReset s).lKeyLen = 0 := rfl
@[simp] theorem hostReset_mem (s : State) : (hostReset s).mem = s.mem := rfl
@[simp] theorem hostReset_fault (s : State) : (hostReset s).fault = s.fault := rfl
@[simp] theorem hostReset_inputs (s : State) : (hostReset s).inputs = s.inputs := rfl
@[simp] theorem hostReset_readData (s : State) : (hostReset s).readData = s.readData := rfl
@[simp] theorem hostReset_draws (s : State) : (hostReset s).draws = s.draws := rfl

@[simp] theorem withCommandFirst_params (c : Word) (s : State) : (withCommandFirst c s).params = s.params := rfl
@[simp] theorem withCommandFirst_msgAddr (c : Word) (s : State) : (withCommandFirst c s).msgAddr = s.msgAddr := rfl
@[simp] theorem withCommandFirst_msgLen (c : Word) (s : State) : (withCommandFirst c s).msgLen = s.msgLen := rfl
@[simp] theorem withCommandFirst_keyAddr (c : Word) (s : State) : (withCommandFirst c s).keyAddr = s.keyAddr := rfl
@[simp] theorem withCommandFirst_keyLen (c : Word) (s : State) : (withCommandFirst c s).keyLen = s.keyLen := rfl
@[simp] theorem withCommandFirst_busy (c : Word) (s : State) : (withCommandFirst c s).busy = s.busy := rfl
@[simp] theorem withCommandFirst_done (c : Word) (s : State) : (withCommandFirst c s).done = s.done := rfl
@[simp] theorem withCommandFirst_keyValid (c : Word) (s : State) : (withCommandFirst c s).keyValid = s.keyValid := rfl
@[simp] theorem withCommandFirst_overrun (c : Word) (s : State) : (withCommandFirst c s).overrun = s.overrun := rfl
@[simp] theorem withCommandFirst_err (c : Word) (s : State) : (withCommandFirst c s).err = s.err := rfl
@[simp] theorem withCommandFirst_H (c : Word) (s : State) : (withCommandFirst c s).H = s.H := rfl
@[simp] theorem withCommandFirst_V (c : Word) (s : State) : (withCommandFirst c s).V = s.V := rfl
@[simp] theorem withCommandFirst_W (c : Word) (s : State) : (withCommandFirst c s).W = s.W := rfl
@[simp] theorem withCommandFirst_KBUF (c : Word) (s : State) : (withCommandFirst c s).KBUF = s.KBUF := rfl
@[simp] theorem withCommandFirst_IDIG (c : Word) (s : State) : (withCommandFirst c s).IDIG = s.IDIG := rfl
@[simp] theorem withCommandFirst_op (c : Word) (s : State) : (withCommandFirst c s).op = s.op := rfl
@[simp] theorem withCommandFirst_stage (c : Word) (s : State) : (withCommandFirst c s).stage = s.stage := rfl
@[simp] theorem withCommandFirst_srcLen (c : Word) (s : State) : (withCommandFirst c s).srcLen = s.srcLen := rfl
@[simp] theorem withCommandFirst_nblk (c : Word) (s : State) : (withCommandFirst c s).nblk = s.nblk := rfl
@[simp] theorem withCommandFirst_blk (c : Word) (s : State) : (withCommandFirst c s).blk = s.blk := rfl
@[simp] theorem withCommandFirst_phase (c : Word) (s : State) : (withCommandFirst c s).phase = s.phase := rfl
@[simp] theorem withCommandFirst_t (c : Word) (s : State) : (withCommandFirst c s).t = s.t := rfl
@[simp] theorem withCommandFirst_lMsgAddr (c : Word) (s : State) : (withCommandFirst c s).lMsgAddr = s.lMsgAddr := rfl
@[simp] theorem withCommandFirst_lMsgLen (c : Word) (s : State) : (withCommandFirst c s).lMsgLen = s.lMsgLen := rfl
@[simp] theorem withCommandFirst_lKeyAddr (c : Word) (s : State) : (withCommandFirst c s).lKeyAddr = s.lKeyAddr := rfl
@[simp] theorem withCommandFirst_lKeyLen (c : Word) (s : State) : (withCommandFirst c s).lKeyLen = s.lKeyLen := rfl
@[simp] theorem withCommandFirst_mem (c : Word) (s : State) : (withCommandFirst c s).mem = s.mem := rfl
@[simp] theorem withCommandFirst_fault (c : Word) (s : State) : (withCommandFirst c s).fault = s.fault := rfl
@[simp] theorem withCommandFirst_inputs (c : Word) (s : State) : (withCommandFirst c s).inputs = .host (.regWrite 32 0x00 c) :: s.inputs := rfl
@[simp] theorem withCommandFirst_readData (c : Word) (s : State) : (withCommandFirst c s).readData = s.readData := rfl
@[simp] theorem withCommandFirst_draws (c : Word) (s : State) : (withCommandFirst c s).draws = s.draws := rfl

@[simp] theorem markFaulted_params (k : Fault) (s : State) : (markFaulted k s).params = s.params := rfl
@[simp] theorem markFaulted_msgAddr (k : Fault) (s : State) : (markFaulted k s).msgAddr = s.msgAddr := rfl
@[simp] theorem markFaulted_msgLen (k : Fault) (s : State) : (markFaulted k s).msgLen = s.msgLen := rfl
@[simp] theorem markFaulted_keyAddr (k : Fault) (s : State) : (markFaulted k s).keyAddr = s.keyAddr := rfl
@[simp] theorem markFaulted_keyLen (k : Fault) (s : State) : (markFaulted k s).keyLen = s.keyLen := rfl
@[simp] theorem markFaulted_busy (k : Fault) (s : State) : (markFaulted k s).busy = s.busy := rfl
@[simp] theorem markFaulted_done (k : Fault) (s : State) : (markFaulted k s).done = s.done := rfl
@[simp] theorem markFaulted_keyValid (k : Fault) (s : State) : (markFaulted k s).keyValid = s.keyValid := rfl
@[simp] theorem markFaulted_overrun (k : Fault) (s : State) : (markFaulted k s).overrun = s.overrun := rfl
@[simp] theorem markFaulted_err (k : Fault) (s : State) : (markFaulted k s).err = s.err := rfl
@[simp] theorem markFaulted_H (k : Fault) (s : State) : (markFaulted k s).H = s.H := rfl
@[simp] theorem markFaulted_V (k : Fault) (s : State) : (markFaulted k s).V = s.V := rfl
@[simp] theorem markFaulted_W (k : Fault) (s : State) : (markFaulted k s).W = s.W := rfl
@[simp] theorem markFaulted_KBUF (k : Fault) (s : State) : (markFaulted k s).KBUF = s.KBUF := rfl
@[simp] theorem markFaulted_IDIG (k : Fault) (s : State) : (markFaulted k s).IDIG = s.IDIG := rfl
@[simp] theorem markFaulted_op (k : Fault) (s : State) : (markFaulted k s).op = s.op := rfl
@[simp] theorem markFaulted_stage (k : Fault) (s : State) : (markFaulted k s).stage = s.stage := rfl
@[simp] theorem markFaulted_srcLen (k : Fault) (s : State) : (markFaulted k s).srcLen = s.srcLen := rfl
@[simp] theorem markFaulted_nblk (k : Fault) (s : State) : (markFaulted k s).nblk = s.nblk := rfl
@[simp] theorem markFaulted_blk (k : Fault) (s : State) : (markFaulted k s).blk = s.blk := rfl
@[simp] theorem markFaulted_phase (k : Fault) (s : State) : (markFaulted k s).phase = s.phase := rfl
@[simp] theorem markFaulted_t (k : Fault) (s : State) : (markFaulted k s).t = s.t := rfl
@[simp] theorem markFaulted_lMsgAddr (k : Fault) (s : State) : (markFaulted k s).lMsgAddr = s.lMsgAddr := rfl
@[simp] theorem markFaulted_lMsgLen (k : Fault) (s : State) : (markFaulted k s).lMsgLen = s.lMsgLen := rfl
@[simp] theorem markFaulted_lKeyAddr (k : Fault) (s : State) : (markFaulted k s).lKeyAddr = s.lKeyAddr := rfl
@[simp] theorem markFaulted_lKeyLen (k : Fault) (s : State) : (markFaulted k s).lKeyLen = s.lKeyLen := rfl
@[simp] theorem markFaulted_mem (k : Fault) (s : State) : (markFaulted k s).mem = s.mem := rfl
@[simp] theorem markFaulted_fault (k : Fault) (s : State) : (markFaulted k s).fault = some k := rfl
@[simp] theorem markFaulted_inputs (k : Fault) (s : State) : (markFaulted k s).inputs = s.inputs := rfl
@[simp] theorem markFaulted_readData (k : Fault) (s : State) : (markFaulted k s).readData = s.readData := rfl
@[simp] theorem markFaulted_draws (k : Fault) (s : State) : (markFaulted k s).draws = s.draws := rfl

end Sys2Proof.Machine
end

