-- ==== Sys2Proof/Laws/Commands.lean ====
section
/-! SUPPORT. Everything taking, checking and accepting a command can do. -/

namespace Sys2Proof.Machine

open Sys2Proof.Config

@[simp] theorem code_none : ErrCode.none.code = 0#4 := rfl
@[simp] theorem code_illegalCmd : ErrCode.illegalCmd.code = 1#4 := rfl
@[simp] theorem code_noKey : ErrCode.noKey.code = 2#4 := rfl
@[simp] theorem code_range : ErrCode.range.code = 3#4 := rfl
@[simp] theorem code_length : ErrCode.length.code = 4#4 := rfl

/-- While a job runs the word is dropped. -/
theorem takeCommand_busy {s : State} (h : s.busy = true) (body : State → Result) :
    takeCommand s body = .next { s with overrun := true } := by simp [takeCommand, h, setOverrun]

/-- While idle the word is taken, with OVERRUN cleared. -/
theorem takeCommand_idle {s : State} (h : s.busy = false) (body : State → Result) :
    takeCommand s body = body { s with overrun := false } := by simp [takeCommand, h, setOverrun]

/-- Taking a command: what a next state of it can be. -/
theorem takeCommand_cases {s t : State} {body : State → Result} (h : takeCommand s body = .next t) :
    (s.busy = true ∧ t = { s with overrun := true }) ∨
      (s.busy = false ∧ body { s with overrun := false } = .next t) := by
  rcases Bool.eq_false_or_eq_true s.busy with hb | hb
  · rw [takeCommand_busy hb] at h; cases h; exact .inl ⟨hb, rfl⟩
  · rw [takeCommand_idle hb] at h; exact .inr ⟨hb, h⟩

/-- OVERRUN is read by no check. -/
@[simp] theorem check_overrun (op : Instr) (s : State) (b : Bool) : check op { s with overrun := b } = check op s := by
  cases op <;> rfl

/-- What `Check` accepts (60_exceptions.md R227). -/
theorem check_eq_none_iff {op : Instr} {s : State} :
    check op s = none ↔ keyMissing op s = false ∧ rangeFails op s = false ∧ lengthFails op s = false := by
  unfold check
  cases keyMissing op s <;> cases rangeFails op s <;> cases lengthFails op s <;> simp

/-- The range check passes when the range the command reads lies inside MEM (60_exceptions.md R225). -/
theorem rangeFails_eq_false {op : Instr} {s : State} {a l : Nat} (ho : rangeOperand op s = some (a, l))
    (h : a + l ≤ s.memBytes) : rangeFails op s = false := by
  unfold rangeFails; rw [ho]; simpa using h

/-- A range check that passed (60_exceptions.md R225). -/
theorem range_inside {op : Instr} {s : State} {a l : Nat} (h : rangeFails op s = false)
    (ho : rangeOperand op s = some (a, l)) : a + l ≤ s.memBytes := by
  unfold rangeFails at h; rw [ho] at h; simpa using h

/-- The length check passes outside mode REJECT and below 2^32 bits (60_exceptions.md R226). -/
theorem lengthFails_eq_false {op : Instr} {s : State} {l : Nat} (ho : paddedOperand op s = some l)
    (h : s.params.lengthMode = .reject → 8 * l < 2 ^ 32) : lengthFails op s = false := by
  unfold lengthFails; rw [ho]; split <;> simp_all

/-- The causes of a rejection, in their order (60_exceptions.md R227). -/
theorem check_cases {op : Instr} {s : State} {c : ErrCode} (h : check op s = some c) :
    (c = .noKey ∧ keyMissing op s = true) ∨
      (c = .range ∧ keyMissing op s = false ∧ rangeFails op s = true) ∨
      (c = .length ∧ keyMissing op s = false ∧ rangeFails op s = false ∧ lengthFails op s = true) := by
  unfold check at h
  cases hk : keyMissing op s <;> cases hr : rangeFails op s <;> cases hl : lengthFails op s <;> simp_all

/-- Acceptance as one record. -/
theorem accept_after_clear (op : Instr) (s : State) : accept op { s with overrun := false } = acceptedAs op s := rfl

/-- Rejection as one record. -/
theorem reject_after_clear (c : ErrCode) (s : State) : reject c { s with overrun := false } = rejectedWith c.code s := rfl

/-- A command that Check accepts, while idle, goes on with its own rule. -/
theorem command_accept {op : Instr} {s : State} (hb : s.busy = false) (hc : check op s = none) (body : State → Result) :
    command op s body = body (acceptedAs op s) := by
  rw [command, takeCommand_idle hb, check_overrun, hc]; rfl

/-- A command that Check rejects, while idle, changes only STATUS. -/
theorem command_reject {op : Instr} {s : State} {c : ErrCode} (hb : s.busy = false) (hc : check op s = some c)
    (body : State → Result) : command op s body = .next (rejectedWith c.code s) := by
  rw [command, takeCommand_idle hb, check_overrun, hc]; rfl

/-- A command word: what a next state of it can be. -/
theorem command_cases {op : Instr} {s t : State} {body : State → Result} (h : command op s body = .next t) :
    (s.busy = true ∧ t = { s with overrun := true }) ∨
      (s.busy = false ∧ ∃ c, check op s = some c ∧ t = rejectedWith c.code s) ∨
      (s.busy = false ∧ check op s = none ∧ body (acceptedAs op s) = .next t) := by
  rcases takeCommand_cases h with ⟨hb, rfl⟩ | ⟨hb, -⟩
  · exact .inl ⟨hb, rfl⟩
  · cases hc : check op s with
    | some c => rw [command_reject hb hc] at h; cases h; exact .inr (.inl ⟨hb, c, rfl, rfl⟩)
    | none => rw [command_accept hb hc] at h; exact .inr (.inr ⟨hb, rfl, h⟩)

/-- A short KEYLOAD whose key bytes are all written. -/
theorem loadShortKey_of_some {s : State} {k : Vector Byte 64} (h : gather64 (shortKeyByte s) = some k) :
    loadShortKey s = .next { s with KBUF := k, keyValid := true, done := true } := by
  unfold loadShortKey; rw [h]; rfl

/-- A short KEYLOAD with an unwritten key byte. -/
theorem loadShortKey_of_none {s : State} (h : gather64 (shortKeyByte s) = none) :
    loadShortKey s = .fault .unwrittenRead := by
  unfold loadShortKey; rw [h]

/-- What a short KEYLOAD can do (42_hmac_composer.md R194). -/
theorem loadShortKey_cases {s t : State} (h : loadShortKey s = .next t) :
    ∃ k, gather64 (shortKeyByte s) = some k ∧ t = { s with KBUF := k, keyValid := true, done := true } := by
  unfold loadShortKey at h
  split at h
  · rename_i k hk; cases h; exact ⟨k, hk, rfl⟩
  · cases h

/-- Every meaning is a command word taken, checked and, if accepted, followed by the instruction's own rule. -/
theorem exec_eq_command (i : Instr) (s : State) : ∃ body, exec i s = command i s body := by
  cases i with
  | nop => exact ⟨fun s => .next (setDone s), rfl⟩
  | init => exact ⟨fun s => .next (setDone { s with H := IV }), rfl⟩
  | block => exact ⟨fun s => .next (startInvocation .block 64 s), rfl⟩
  | hash => exact ⟨fun s => .next (startInvocation .hash s.lMsgLen s), rfl⟩
  | keyload =>
    exact ⟨fun s =>
      if s.lKeyLen ≤ 64 then loadShortKey { s with keyValid := false }
      else .next (startInvocation .keyhash s.lKeyLen { s with keyValid := false }), rfl⟩
  | hmac => exact ⟨fun s => .next (startInvocation .inner (64 + s.lMsgLen) s), rfl⟩

/-- While a job runs every command is dropped. -/
theorem exec_busy {i : Instr} {s : State} (hb : s.busy = true) : exec i s = .next { s with overrun := true } := by
  obtain ⟨body, h⟩ := exec_eq_command i s
  rw [h, command, takeCommand_busy hb]

/-- A command that Check rejects, while idle, changes only STATUS. -/
theorem exec_reject {i : Instr} {s : State} {c : ErrCode} (hb : s.busy = false) (hc : check i s = some c) :
    exec i s = .next (rejectedWith c.code s) := by
  obtain ⟨body, h⟩ := exec_eq_command i s
  rw [h, command_reject hb hc]

/-- A word that decodes to no command, taken while idle (60_exceptions.md R223). -/
theorem illegalCommand_idle {s : State} (hb : s.busy = false) : illegalCommand s = .next (rejectedWith 1#4 s) := by
  rw [illegalCommand, takeCommand_idle hb]; rfl

/-- A word that decodes to no command, written while a job runs. -/
theorem illegalCommand_busy {s : State} (hb : s.busy = true) : illegalCommand s = .next { s with overrun := true } := by
  rw [illegalCommand, takeCommand_busy hb]

/-- Every next state of a command: dropped, rejected, or accepted with the effect of its own rule. -/
theorem exec_cases {i : Instr} {s t : State} (h : exec i s = .next t) :
    (s.busy = true ∧ t = { s with overrun := true }) ∨
      (s.busy = false ∧ ∃ c, check i s = some c ∧ t = rejectedWith c.code s) ∨
      (s.busy = false ∧ check i s = none ∧
        ((i = .nop ∧ t = { acceptedAs .nop s with done := true }) ∨
          (i = .init ∧ t = { acceptedAs .init s with H := IV, done := true }) ∨
          (i = .block ∧ t = startInvocation .block 64 (acceptedAs .block s)) ∨
          (i = .hash ∧ t = startInvocation .hash s.msgLen.toNat (acceptedAs .hash s)) ∨
          (i = .keyload ∧ s.keyLen.toNat ≤ 64 ∧
            ∃ k, gather64 (shortKeyByte (acceptedAs .keyload s)) = some k ∧
              t = { acceptedAs .keyload s with KBUF := k, keyValid := true, done := true }) ∨
          (i = .keyload ∧ 64 < s.keyLen.toNat ∧
            t = startInvocation .keyhash s.keyLen.toNat { acceptedAs .keyload s with keyValid := false }) ∨
          (i = .hmac ∧ t = startInvocation .inner (64 + s.msgLen.toNat) (acceptedAs .hmac s)))) := by
  cases i with
  | nop =>
    rw [exec, execNop] at h
    rcases command_cases h with h | h | ⟨hb, hc, h⟩
    · exact .inl h
    · exact .inr (.inl h)
    · cases h; exact .inr (.inr ⟨hb, hc, .inl ⟨rfl, rfl⟩⟩)
  | init =>
    rw [exec, execInit] at h
    rcases command_cases h with h | h | ⟨hb, hc, h⟩
    · exact .inl h
    · exact .inr (.inl h)
    · cases h; exact .inr (.inr ⟨hb, hc, .inr (.inl ⟨rfl, rfl⟩)⟩)
  | block =>
    rw [exec, execBlock] at h
    rcases command_cases h with h | h | ⟨hb, hc, h⟩
    · exact .inl h
    · exact .inr (.inl h)
    · cases h; exact .inr (.inr ⟨hb, hc, .inr (.inr (.inl ⟨rfl, rfl⟩))⟩)
  | hash =>
    rw [exec, execHash] at h
    rcases command_cases h with h | h | ⟨hb, hc, h⟩
    · exact .inl h
    · exact .inr (.inl h)
    · cases h; exact .inr (.inr ⟨hb, hc, .inr (.inr (.inr (.inl ⟨rfl, rfl⟩)))⟩)
  | keyload =>
    rw [exec, execKeyload] at h
    rcases command_cases h with h | h | ⟨hb, hc, h⟩
    · exact .inl h
    · exact .inr (.inl h)
    · refine .inr (.inr ⟨hb, hc, ?_⟩)
      by_cases hle : s.keyLen.toNat ≤ 64
      · have h : loadShortKey { acceptedAs .keyload s with keyValid := false } = .next t := (if_pos hle).symm.trans h
        obtain ⟨k, hk, rfl⟩ := loadShortKey_cases h
        exact .inr (.inr (.inr (.inr (.inl ⟨rfl, hle, k, hk, rfl⟩))))
      · have h : Host.Outcome.next _ = .next t := (if_neg hle).symm.trans h
        cases h
        exact .inr (.inr (.inr (.inr (.inr (.inl ⟨rfl, Nat.lt_of_not_le hle, rfl⟩)))))
  | hmac =>
    rw [exec, execHmac] at h
    rcases command_cases h with h | h | ⟨hb, hc, h⟩
    · exact .inl h
    · exact .inr (.inl h)
    · cases h; exact .inr (.inr ⟨hb, hc, .inr (.inr (.inr (.inr (.inr (.inr ⟨rfl, rfl⟩)))))⟩)

end Sys2Proof.Machine
end

