-- ==== Sys2Proof/Laws/Datapath.lean ====
section
/-! SUPPORT. Entries of the schedule, lanes of a round and of the add-back, and lengths of padded buffers. -/

namespace Sys2Proof.Machine

open Sys2Proof.Config

/-- The block decode writes W[0..15]. -/
theorem getElem_loadWords_lt (W : Vector Word 64) (B : Vector Byte 64) (i : Nat) (h : i < 16) :
    (loadWords W B)[i]'(by omega) = blockWord B ⟨i, h⟩ := by simp [loadWords, h]

/-- The block decode leaves W[16..63]. -/
theorem getElem_loadWords_ge (W : Vector Word 64) (B : Vector Byte 64) (i : Nat) (h : i < 64) (h' : 16 ≤ i) :
    (loadWords W B)[i] = W[i] := by simp [loadWords, Nat.not_lt.2 h']

/-- One expansion step writes entry t. -/
@[simp] theorem getElem_schedStep_same (W : Vector Word 64) (t : Fin 64) : (schedStep W t)[t.val] = schedWord W t := by
  simp [schedStep]

/-- One expansion step leaves every other entry. -/
theorem getElem_schedStep_ne (W : Vector Word 64) (t : Fin 64) (i : Nat) (h : i < 64) (hne : t.val ≠ i) :
    (schedStep W t)[i] = W[i] := by simp [schedStep, Vector.getElem_set_ne, hne]

/-- The expansion's next entry as a number. -/
theorem ofNat_val {n : Nat} (h : n < 64) : (Fin.ofNat 64 n).val = n := Nat.mod_eq_of_lt h

/-- The first n expansion steps leave the entries from 16 + n on, and those below 16. -/
theorem getElem_expand_outside (W : Vector Word 64) (n i : Nat) (hn : n ≤ 48) (hi : i < 64) (h : i < 16 ∨ 16 + n ≤ i) :
    (expand W n)[i] = W[i] := by
  induction n with
  | zero => rfl
  | succ n ih =>
    have hv : (Fin.ofNat 64 (16 + n)).val = 16 + n := ofNat_val (by omega)
    rw [expand, getElem_schedStep_ne _ _ _ _ (by omega)]
    exact ih (by omega) (by omega)

/-- An entry, once expanded, stays. -/
theorem getElem_expand_stable (W : Vector Word 64) (n k i : Nat) (hk : n + k ≤ 48) (hi : i < 16 + n) :
    (expand W (n + k))[i]'(by omega) = (expand W n)[i]'(by omega) := by
  induction k with
  | zero => rfl
  | succ k ih =>
    have hv : (Fin.ofNat 64 (16 + (n + k))).val = 16 + (n + k) := ofNat_val (by omega)
    rw [← Nat.add_assoc, expand, getElem_schedStep_ne _ _ _ _ (by omega)]
    exact ih (by omega)

/-- The expanded part depends on the first 16 entries only. -/
theorem getElem_expand_congr {W W' : Vector Word 64} (h : ∀ i (hi : i < 16), W[i] = W'[i]) (n : Nat) (hn : n ≤ 48)
    (i : Nat) (hi : i < 16 + n) : (expand W n)[i]'(by omega) = (expand W' n)[i]'(by omega) := by
  induction n generalizing i with
  | zero => exact h i (by omega)
  | succ n ih =>
    have hv : (Fin.ofNat 64 (16 + n)).val = 16 + n := ofNat_val (by omega)
    simp only [expand]
    rcases Nat.lt_or_ge i (16 + n) with hlt | hge
    · rw [getElem_schedStep_ne _ _ _ _ (by omega), getElem_schedStep_ne _ _ _ _ (by omega)]
      exact ih (by omega) i hlt
    · obtain rfl : i = (Fin.ofNat 64 (16 + n)).val := by omega
      rw [getElem_schedStep_same, getElem_schedStep_same, schedWord, schedWord]
      rw [ih (by omega) _ (by omega), ih (by omega) _ (by omega), ih (by omega) _ (by omega), ih (by omega) _ (by omega)]

/-- The schedule of a block does not depend on what W held before (40_digest_datapath.md R114). -/
theorem expand_loadWords (W : Vector Word 64) (B : Vector Byte 64) : expand (loadWords W B) 48 = schedule B := by
  apply Vector.ext
  intro i hi
  exact getElem_expand_congr (fun i hi => by rw [getElem_loadWords_lt _ _ _ hi, getElem_loadWords_lt _ _ _ hi]) 48
    (Nat.le_refl _) i hi

/-- The add-back, lane by lane. -/
@[simp] theorem getElem_addBack (H V : Vector Word 8) (i : Nat) (h : i < 8) : (addBack H V)[i] = H[i] + V[i] := by
  simp [addBack]

@[simp] theorem length_bytesBE32 (w : Word) : (bytesBE32 w).length = 4 := rfl

/-- A digest has 32 bytes (40_digest_datapath.md R124). -/
@[simp] theorem length_bytesBE (ws : Vector Word 8) : (bytesBE ws).length = 32 := by
  simp [bytesBE, List.length_flatMap]

@[simp] theorem length_lenField (mode : LengthMode) (L : Nat) : (lenField mode L).length = 8 := by
  cases mode <;> simp [lenField, bytesBE64]

/-- The padded buffer holds the message, the marker and the length field. -/
theorem paddedLen_ge (L : Nat) : L + 9 ≤ paddedLen L := by unfold paddedLen numBlocks; omega

/-- The padded buffer has PLEN bytes (40_digest_datapath.md R122). -/
@[simp] theorem length_pad (mode : LengthMode) (m : List Byte) : (pad mode m).length = paddedLen m.length := by
  have := paddedLen_ge m.length
  simp only [pad, List.length_append, List.length_cons, List.length_nil, List.length_replicate, length_lenField, zeroCount]
  omega

/-- An invocation has at least one block. -/
theorem numBlocks_pos (L : Nat) : 0 < numBlocks L := Nat.succ_pos _

@[simp] theorem length_sha256 (mode : LengthMode) (m : List Byte) : (sha256 mode m).length = 32 := length_bytesBE _

/-- K0 has 64 bytes (42_hmac_composer.md R190). -/
@[simp] theorem length_blockKey (mode : LengthMode) (key : List Byte) : (blockKey mode key).length = 64 := by
  unfold blockKey
  split
  · simp
  · simp only [List.length_append, List.length_replicate]; omega

@[simp] theorem length_innerBuf (k0 m : List Byte) : (innerBuf k0 m).length = k0.length + m.length := by simp [innerBuf]

@[simp] theorem length_outerBuf (k0 d : List Byte) : (outerBuf k0 d).length = k0.length + d.length := by simp [outerBuf]

end Sys2Proof.Machine
end

