-- ==== Sys2Proof/Laws/Memory.lean ====
section
/-! SUPPORT. What reading and writing MEM and gathering bytes can do. -/

namespace Sys2Proof.Machine

@[simp] theorem Memory.read_nil (a : Nat) : Memory.read [] a = none := rfl

theorem Memory.wf_nil : Memory.wf [] := List.Pairwise.nil

/-- Read after write at the same address. -/
@[simp] theorem Memory.read_write_same (m : Memory) (a : Nat) (v : Byte) : (m.write a v).read a = some v := by
  induction m with
  | nil => simp [Memory.write, Memory.read]
  | cons c rest ih =>
    obtain ⟨b, w⟩ := c
    unfold Memory.write
    split
    · simp [Memory.read]
    · split
      · simp [Memory.read]
      · rename_i h1 h2
        simp only [Memory.read, if_neg (Ne.symm h2)]
        exact ih

/-- A write leaves every other address alone. -/
theorem Memory.read_write_other (m : Memory) {a b : Nat} (v : Byte) (h : a ≠ b) : (m.write a v).read b = m.read b := by
  induction m with
  | nil => simp [Memory.write, Memory.read, h]
  | cons c rest ih =>
    obtain ⟨x, w⟩ := c
    unfold Memory.write
    split
    · rw [Memory.read, if_neg h]
    · split
      · rename_i h1 h2
        subst h2
        simp [Memory.read, h]
      · simp only [Memory.read, ih]

/-- The addresses of a written memory. -/
theorem Memory.mem_write {m : Memory} {a : Nat} {v : Byte} {c : Host.Cell} (h : c ∈ m.write a v) :
    c = (a, v) ∨ c ∈ m := by
  induction m with
  | nil => simpa [Memory.write] using h
  | cons d rest ih =>
    obtain ⟨x, w⟩ := d
    unfold Memory.write at h
    split at h
    · simpa using h
    · split at h
      · simp only [List.mem_cons] at h ⊢; tauto
      · simp only [List.mem_cons] at h ⊢; tauto

/-- A write keeps the canonical form. -/
theorem Memory.wf_write {m : Memory} (a : Nat) (v : Byte) (h : m.wf) : (m.write a v).wf := by
  induction m with
  | nil => simp [Memory.write, Memory.wf]
  | cons c rest ih =>
    obtain ⟨x, w⟩ := c
    simp only [Memory.wf, List.pairwise_cons] at h
    unfold Memory.write
    split
    · rename_i hx
      simp only [Memory.wf, List.pairwise_cons, List.mem_cons]
      refine ⟨?_, h⟩
      rintro c (rfl | hc)
      · exact hx
      · exact hx.trans (h.1 c hc)
    · split
      · rename_i h1 h2
        subst h2
        exact List.pairwise_cons.2 ⟨h.1, h.2⟩
      · rename_i h1 h2
        refine List.pairwise_cons.2 ⟨fun c hc => ?_, ih h.2⟩
        rcases Memory.mem_write hc with rfl | hc
        · exact lt_of_le_of_ne (Nat.le_of_not_lt h1) (Ne.symm h2)
        · exact h.1 c hc

/-- A write below `n` keeps every cell below `n`. -/
theorem Memory.inside_write {m : Memory} {n a : Nat} (v : Byte) (ha : a < n) (h : ∀ c ∈ m, c.1 < n) :
    ∀ c ∈ m.write a v, c.1 < n := by
  intro c hc
  rcases Memory.mem_write hc with rfl | hc
  · exact ha
  · exact h c hc

/-- A cell that is read was listed. -/
theorem Memory.mem_of_read {m : Memory} {a : Nat} {v : Byte} (h : m.read a = some v) : (a, v) ∈ m := by
  induction m with
  | nil => simp at h
  | cons c rest ih =>
    obtain ⟨x, w⟩ := c
    unfold Memory.read at h
    split at h
    · rename_i hx; subst hx; cases h; exact List.mem_cons_self
    · exact List.mem_cons_of_mem _ (ih h)

/-- `gather` answers exactly the vector of the bytes asked for. -/
theorem gather_eq_some_iff {α : Type} (f : Nat → Option α) (n : Nat) (v : Vector α n) :
    gather f n = some v ↔ ∀ i (h : i < n), f i = some v[i] := by
  induction n with
  | zero =>
    have hv : v = #v[] := Vector.eq_empty
    simp [gather, hv]
  | succ n ih =>
    constructor
    · intro h i hi
      simp only [gather, Option.bind_eq_some_iff, Option.map_eq_some_iff] at h
      obtain ⟨w, hw, b, hb, rfl⟩ := h
      rcases Nat.lt_succ_iff_lt_or_eq.1 hi with hlt | rfl
      · rw [Vector.getElem_push_lt hlt]; exact (ih w).1 hw i hlt
      · rw [hb]; simp
    · intro h
      have h1 : gather f n = some v.pop :=
        (ih v.pop).2 fun i hi => by rw [h i (by omega), Vector.getElem_pop]
      have h2 : f n = some v.back := by rw [h n (by omega), Vector.back_eq_getElem]; rfl
      rw [gather, h1, h2]
      simp

/-- The 64 bytes are those asked for. -/
theorem gather64_eq_some_iff {f : Nat → Option Byte} {v : Vector Byte 64} :
    gather64 f = some v ↔ ∀ i (h : i < 64), f i = some v[i] := by
  unfold gather64; exact gather_eq_some_iff f 64 v

/-- None exactly where one of the 64 bytes is missing. -/
theorem gather64_eq_none_iff {f : Nat → Option Byte} : gather64 f = none ↔ ∃ i < 64, f i = none := by
  constructor
  · intro h
    by_contra hc
    simp only [not_exists, not_and] at hc
    have hs : ∀ i (hi : i < 64), (f i).isSome := fun i hi => Option.isSome_iff_ne_none.2 (hc i hi)
    have hg : gather64 f = some (Vector.ofFn fun i : Fin 64 => (f i.val).get (hs i.val i.isLt)) :=
      gather64_eq_some_iff.2 (by intro i hi; simp)
    rw [h] at hg
    cases hg
  · rintro ⟨i, hi, hn⟩
    cases hg : gather64 f with
    | none => rfl
    | some v => rw [gather64_eq_some_iff.1 hg i hi] at hn; cases hn

/-- Only the first 64 bytes of the source are read. -/
theorem gather64_congr {f g : Nat → Option Byte} (h : ∀ i < 64, f i = g i) : gather64 f = gather64 g := by
  cases hg : gather64 g with
  | none =>
    obtain ⟨i, hi, hn⟩ := gather64_eq_none_iff.1 hg
    exact gather64_eq_none_iff.2 ⟨i, hi, (h i hi).trans hn⟩
  | some v => exact gather64_eq_some_iff.2 fun i hi => (h i hi).trans (gather64_eq_some_iff.1 hg i hi)

end Sys2Proof.Machine
end

