-- ==== Sys2Proof/Laws/Sequencer.lean ====
section
/-! SUPPORT. Everything the sequencer's steps can do. -/

namespace Sys2Proof.Machine

/-- LOAD on a block that is read whole. -/
theorem stepLoad_of_some {s : State} {B : Vector Byte 64} (h : currentBlock s = some B) :
    stepLoad s = .next (loadBlock B s) := by
  unfold stepLoad; rw [h]

/-- LOAD on a block with an unwritten byte. -/
theorem stepLoad_of_none {s : State} (h : currentBlock s = none) : stepLoad s = .fault .unwrittenRead := by
  unfold stepLoad; rw [h]

/-- LOAD goes on exactly when the block was read whole. -/
theorem stepLoad_cases {s t : State} (h : stepLoad s = .next t) : ∃ B, currentBlock s = some B ∧ t = loadBlock B s := by
  unfold stepLoad at h
  split at h
  · rename_i B hB; cases h; exact ⟨B, hB, rfl⟩
  · cases h

/-- The only fault of LOAD. -/
theorem stepLoad_fault {s : State} {k : Fault} (h : stepLoad s = .fault k) :
    k = .unwrittenRead ∧ currentBlock s = none := by
  unfold stepLoad at h
  split at h
  · cases h
  · rename_i hB; cases h; exact ⟨rfl, hB⟩

/-- What a stage end is (41_engine_commands.md R158). -/
theorem stageEnd_cases (Hn : Vector Word 8) (s : State) :
    ((s.stage = .block ∨ s.stage = .hash ∨ s.stage = .outer) ∧ stageEnd Hn s = { s with busy := false, done := true }) ∨
      (s.stage = .keyhash ∧
        stageEnd Hn s = { s with KBUF := keyOfDigest Hn, keyValid := true, busy := false, done := true }) ∨
      (s.stage = .inner ∧ stageEnd Hn s = startInvocation .outer 96 { s with IDIG := Hn }) := by
  unfold stageEnd
  split
  · exact .inl ⟨.inl ‹_›, rfl⟩
  · exact .inl ⟨.inr (.inl ‹_›), rfl⟩
  · exact .inr (.inl ⟨‹_›, rfl⟩)
  · exact .inr (.inr ⟨‹_›, rfl⟩)
  · exact .inl ⟨.inr (.inr ‹_›), rfl⟩

/-- What ADD does (41_engine_commands.md R157). -/
theorem stepAdd_cases (s : State) :
    (s.blk + 1 < s.nblk ∧ stepAdd s = { s with H := addBack s.H s.V, blk := s.blk + 1, phase := .load }) ∨
      (s.nblk ≤ s.blk + 1 ∧ stepAdd s = stageEnd (addBack s.H s.V) { s with H := addBack s.H s.V }) := by
  unfold stepAdd
  split
  · exact .inl ⟨‹_›, rfl⟩
  · exact .inr ⟨by omega, rfl⟩

/-- While BUSY = 0 the sequencer's turn changes nothing. -/
theorem sequencerStep_idle {s : State} (h : s.busy = false) : sequencerStep s = .next s := by
  simp [sequencerStep, h]

/-- While BUSY = 1 the sequencer takes the step its phase names (41_engine_commands.md R161). -/
theorem sequencerStep_busy {s : State} (h : s.busy = true) :
    sequencerStep s =
      match s.phase with
      | .load => stepLoad s
      | .sched => .next (stepSched s)
      | .round => .next (stepRound s)
      | .add => .next (stepAdd s) := by
  exact if_pos h

/-- Every next state of the sequencer's turn. -/
theorem sequencerStep_cases {s t : State} (h : sequencerStep s = .next t) :
    (s.busy = false ∧ t = s) ∨
      (s.busy = true ∧
        ((s.phase = .load ∧ ∃ B, currentBlock s = some B ∧ t = loadBlock B s) ∨
          (s.phase = .sched ∧ t = stepSched s) ∨ (s.phase = .round ∧ t = stepRound s) ∨
          (s.phase = .add ∧ t = stepAdd s))) := by
  rcases Bool.eq_false_or_eq_true s.busy with hb | hb
  · rw [sequencerStep_busy hb] at h
    refine .inr ⟨hb, ?_⟩
    split at h
    · exact .inl ⟨‹_›, stepLoad_cases h⟩
    · cases h; exact .inr (.inl ⟨‹_›, rfl⟩)
    · cases h; exact .inr (.inr (.inl ⟨‹_›, rfl⟩))
    · cases h; exact .inr (.inr (.inr ⟨‹_›, rfl⟩))
  · rw [sequencerStep_idle hb] at h; cases h; exact .inl ⟨hb, rfl⟩

end Sys2Proof.Machine
end

