-- ==== Sys2Proof/Laws/Host.lean ====
section
/-! SUPPORT. Everything a host access and a step of the machine can do. -/

namespace Sys2Proof.Machine

/-- A MEM write that goes on (20_memory.md R62). -/
theorem hostMemWrite_cases {a : Nat} {v : Byte} {s t : State} (h : hostMemWrite a v s = .next t) :
    a < s.memBytes ∧ (s.busy && inActiveRange s a) = false ∧ t = { s with mem := s.mem.write a v } := by
  unfold hostMemWrite at h
  split at h
  · cases h
  · split at h
    · cases h
    · rename_i h1 h2; cases h; exact ⟨Nat.lt_of_not_le h1, by simpa using h2, rfl⟩

/-- A MEM read that goes on (20_memory.md R63). -/
theorem hostMemRead_cases {a : Nat} {s t : State} (h : hostMemRead a s = .next t) :
    ∃ b, a < s.memBytes ∧ s.mem.read a = some b ∧ t = { s with readData := some (.byte b) } := by
  unfold hostMemRead at h
  split at h
  · cases h
  · rename_i h1
    split at h
    · rename_i b hb; cases h; exact ⟨b, Nat.lt_of_not_le h1, hb, rfl⟩
    · cases h

/-- A register read that goes on (20_memory.md R68, 10_state.md R35). -/
theorem hostRegRead_cases {width off : Nat} {s t : State} (h : hostRegRead width off s = .next t) :
    width = 32 ∧ ∃ w, registerWord s off = some w ∧
      (((s.busy && isDigestOffset off) = true ∧ t = returnDraw s) ∨
        ((s.busy && isDigestOffset off) = false ∧ t = { s with readData := some (.word w) })) := by
  unfold hostRegRead at h
  split at h
  · cases h
  · rename_i hw
    refine ⟨not_not.1 hw, ?_⟩
    split at h
    · cases h
    · rename_i w hr
      refine ⟨w, hr, ?_⟩
      split at h
      · rename_i hd; cases h; exact .inl ⟨hd, rfl⟩
      · rename_i hd; cases h; exact .inr ⟨by simpa using hd, rfl⟩

/-- A write of a register other than CMD: an operand register, or nothing (10_state.md R28 to R32). -/
theorem writeRegister_cases {off : Nat} {v : Word} {s t : State} (h : writeRegister off v s = some t) :
    (off = 0x08 ∧ t = { s with msgAddr := v }) ∨ (off = 0x0C ∧ t = { s with msgLen := v }) ∨
      (off = 0x10 ∧ t = { s with keyAddr := v }) ∨ (off = 0x14 ∧ t = { s with keyLen := v }) ∨
      (off ≠ 0x08 ∧ off ≠ 0x0C ∧ off ≠ 0x10 ∧ off ≠ 0x14 ∧ (registerWord s off).isSome ∧ t = s) := by
  unfold writeRegister at h
  split at h
  · cases h; exact .inl ⟨rfl, rfl⟩
  · cases h; exact .inr (.inl ⟨rfl, rfl⟩)
  · cases h; exact .inr (.inr (.inl ⟨rfl, rfl⟩))
  · cases h; exact .inr (.inr (.inr (.inl ⟨rfl, rfl⟩)))
  · rename_i h1 h2 h3 h4
    refine .inr (.inr (.inr (.inr ⟨h1, h2, h3, h4, ?_⟩)))
    cases hr : registerWord s off with
    | none => rw [hr] at h; cases h
    | some w => rw [hr] at h; cases h; exact ⟨rfl, rfl⟩

/-- A word written to CMD: what a next state can be. -/
theorem hostWriteCmd_cases {c : Word} {s t : State} (h : hostWriteCmd c s = .next t) :
    (s.busy = true ∧ t = { s with overrun := true }) ∨
      (s.busy = false ∧ decode c = none ∧ t = rejectedWith 1#4 s) ∨
      (s.busy = false ∧ ∃ i, decode c = some i ∧ exec i s = .next t) := by
  unfold hostWriteCmd at h
  split at h
  · rename_i i hi
    rcases exec_cases h with ⟨hb, rfl⟩ | ⟨hb, -⟩ | ⟨hb, -⟩
    · exact .inl ⟨hb, rfl⟩
    · exact .inr (.inr ⟨hb, i, hi, h⟩)
    · exact .inr (.inr ⟨hb, i, hi, h⟩)
  · rename_i hi
    rcases takeCommand_cases h with ⟨hb, rfl⟩ | ⟨hb, h⟩
    · exact .inl ⟨hb, rfl⟩
    · cases h; exact .inr (.inl ⟨hb, hi, rfl⟩)

/-- A register write that goes on (20_memory.md R68). -/
theorem hostRegWrite_cases {width off : Nat} {v : Word} {s t : State} (h : hostRegWrite width off v s = .next t) :
    width = 32 ∧ ((off = 0 ∧ hostWriteCmd v s = .next t) ∨ (off ≠ 0 ∧ writeRegister off v s = some t)) := by
  unfold hostRegWrite at h
  split at h
  · cases h
  · rename_i hw
    refine ⟨not_not.1 hw, ?_⟩
    split at h
    · exact .inl ⟨‹_›, h⟩
    · refine .inr ⟨‹_›, ?_⟩
      split at h
      · rename_i s' hs'; cases h; exact hs'
      · cases h

/-- A step that answers a next state: no fault was recorded, and the agent whose turn it was took it. -/
theorem step_cases {s t : State} (h : step s = .next t) :
    s.fault = none ∧
      ((s.inputs = [] ∧ sequencerStep s = .next t) ∨
        (∃ rest, s.inputs = .sequencer :: rest ∧ sequencerStep { s with inputs := rest } = .next t) ∨
        (∃ a rest, s.inputs = .host a :: rest ∧ hostStep a { s with inputs := rest } = .next t)) := by
  unfold step at h
  split at h
  · cases h
  · rename_i hf
    refine ⟨hf, ?_⟩
    unfold agentStep at h
    split at h
    · exact .inl ⟨‹_›, h⟩
    · rename_i a rest hi; exact .inr (.inr ⟨a, rest, hi, h⟩)
    · rename_i rest hi; exact .inr (.inl ⟨rest, hi, h⟩)

/-- The step of a state whose oldest entry is a host access. -/
theorem step_host {s : State} {a : HostAccess} {rest : List Input} (hf : s.fault = none)
    (hi : s.inputs = .host a :: rest) : step s = hostStep a { s with inputs := rest } := by
  simp [step, hf, agentStep, hi]

/-- The step of a state whose oldest entry is the sequencer's turn. -/
theorem step_turn {s : State} {rest : List Input} (hf : s.fault = none) (hi : s.inputs = .sequencer :: rest) :
    step s = sequencerStep { s with inputs := rest } := by
  simp [step, hf, agentStep, hi]

/-- The step of a state with nothing left in the schedule. -/
theorem step_empty {s : State} (hf : s.fault = none) (hi : s.inputs = []) : step s = sequencerStep s := by
  simp [step, hf, agentStep, hi]

/-- A recorded fault is final. -/
theorem step_faulted {s : State} {k : Fault} (hf : s.fault = some k) : step s = .fault k := by simp [step, hf]

@[simp] theorem run_zero (s : State) : run 0 s = .next s := rfl

/-- The first step of a run. -/
theorem run_succ_of_step {s t : State} (n : Nat) (h : step s = .next t) : run (n + 1) s = run n t := by
  rw [run, h]

/-- A run that goes on is a run from where it came. -/
theorem run_add {s t : State} {m : Nat} (n : Nat) (h : run m s = .next t) : run (m + n) s = run n t := by
  induction m generalizing s with
  | zero => cases h; rw [Nat.zero_add]
  | succ m ih =>
    rw [Nat.add_right_comm, run]
    rw [run] at h
    cases hs : step s with
    | next s' => rw [hs] at h; exact ih h
    | fault k => rw [hs] at h; cases h
    | refused r => rw [hs] at h; cases h

end Sys2Proof.Machine
end

