-- ==== Sys2Proof/Laws/PerInstr.lean ====
section
/-! SUPPORT. What holds of every command as syntax: it is well formed and its word decodes to it. -/

namespace Sys2Proof.Laws.Encoding

/-- The command is well formed, its word has RSV = 0, and the decoder reads the command from its word, as a word and as a
word of the opcode table (30_encoding.md R80, R82, R84). -/
def Statement (i : Instr) : Prop :=
  i.wellFormed = true ∧ rsvField (encode i) = 0#28 ∧ decode (encode i) = some i ∧
    decodeTableWord 32 (encode i).toNat = some i

theorem nop : Statement .nop := by unfold Statement; decide
theorem init : Statement .init := by unfold Statement; decide
theorem block : Statement .block := by unfold Statement; decide
theorem hash : Statement .hash := by unfold Statement; decide
theorem keyload : Statement .keyload := by unfold Statement; decide
theorem hmac : Statement .hmac := by unfold Statement; decide

end Sys2Proof.Laws.Encoding
end

