-- ==== Sys2Proof/Laws/Runs.lean ====
section
/-! SUPPORT. What the 114 steps of one block amount to (41_engine_commands.md R168). -/

namespace Sys2Proof.Machine

/-- The sequencer has the turn, for good: no fault, nothing left in the schedule, a job running. -/
structure Turning (s : State) : Prop where
  noFault : s.fault = none
  noInput : s.inputs = []
  running : s.busy = true

theorem step_load {s : State} (h : Turning s) (hp : s.phase = .load) {B : Vector Byte 64} (hB : currentBlock s = some B) :
    step s = .next (loadBlock B s) := by
  simp only [step_empty h.noFault h.noInput, sequencerStep_busy h.running, hp, stepLoad_of_some hB]

theorem step_sched {s : State} (h : Turning s) (hp : s.phase = .sched) : step s = .next (stepSched s) := by
  simp only [step_empty h.noFault h.noInput, sequencerStep_busy h.running, hp]

theorem step_round {s : State} (h : Turning s) (hp : s.phase = .round) : step s = .next (stepRound s) := by
  simp only [step_empty h.noFault h.noInput, sequencerStep_busy h.running, hp]

theorem step_add {s : State} (h : Turning s) (hp : s.phase = .add) : step s = .next (stepAdd s) := by
  simp only [step_empty h.noFault h.noInput, sequencerStep_busy h.running, hp]

/-- SCHED before the last entry. -/
theorem stepSched_of_ne {s : State} (h : s.t.val ≠ 63) : stepSched s = { s with W := schedStep s.W s.t, t := s.t + 1 } :=
  if_neg h

/-- SCHED at the last entry. -/
theorem stepSched_of_eq {s : State} (h : s.t.val = 63) :
    stepSched s = { s with W := schedStep s.W s.t, phase := .round, t := 0 } := if_pos h

/-- ROUND before the last round. -/
theorem stepRound_of_ne {s : State} (h : s.t.val ≠ 63) :
    stepRound s = { s with V := roundStep s.t s.V s.W[s.t], t := s.t + 1 } := if_neg h

/-- ROUND at the last round. -/
theorem stepRound_of_eq {s : State} (h : s.t.val = 63) :
    stepRound s = { s with V := roundStep s.t s.V s.W[s.t], phase := .add } := if_pos h

/-- The first n SCHED steps from t = 16. -/
theorem run_sched_prefix {s : State} (h : Turning s) (hp : s.phase = .sched) (ht : s.t = 16) (n : Nat) (hn : n ≤ 47) :
    run n s = .next { s with W := expand s.W n, t := Fin.ofNat 64 (16 + n) } := by
  induction n with
  | zero =>
    have : s = { s with W := expand s.W 0, t := Fin.ofNat 64 (16 + 0) } := by
      cases s; simp_all [expand]
    rw [← this]; rfl
  | succ n ih =>
    rw [run_add 1 (ih (by omega))]
    have hv : (Fin.ofNat 64 (16 + n)).val = 16 + n := ofNat_val (by omega)
    have ht1 : Fin.ofNat 64 (16 + n) + 1 = Fin.ofNat 64 (16 + (n + 1)) := by
      apply Fin.ext; simp only [Fin.val_add, Fin.val_ofNat]; omega
    rw [run_succ_of_step 0 (step_sched (s := { s with W := expand s.W n, t := Fin.ofNat 64 (16 + n) })
      ⟨h.noFault, h.noInput, h.running⟩ hp), run_zero, stepSched_of_ne (by simp only [hv]; omega)]
    simp only [ht1, expand]

/-- The 48 SCHED steps of a block. -/
theorem run_sched {s : State} (h : Turning s) (hp : s.phase = .sched) (ht : s.t = 16) :
    run 48 s = .next { s with W := expand s.W 48, phase := .round, t := 0 } := by
  rw [run_add 1 (run_sched_prefix h hp ht 47 (Nat.le_refl _)),
    run_succ_of_step 0 (step_sched (s := { s with W := expand s.W 47, t := Fin.ofNat 64 (16 + 47) })
      ⟨h.noFault, h.noInput, h.running⟩ hp), run_zero, stepSched_of_eq rfl]
  rfl

/-- The first n ROUND steps from t = 0. -/
theorem run_rounds_prefix {s : State} (h : Turning s) (hp : s.phase = .round) (ht : s.t = 0) (n : Nat) (hn : n ≤ 63) :
    run n s = .next { s with V := rounds s.W s.V n, t := Fin.ofNat 64 n } := by
  induction n with
  | zero =>
    have : s = { s with V := rounds s.W s.V 0, t := Fin.ofNat 64 0 } := by
      cases s; simp_all [rounds]
    rw [← this]; rfl
  | succ n ih =>
    rw [run_add 1 (ih (by omega))]
    have hv : (Fin.ofNat 64 n).val = n := ofNat_val (by omega)
    have ht1 : Fin.ofNat 64 n + 1 = Fin.ofNat 64 (n + 1) := by
      apply Fin.ext; simp only [Fin.val_add, Fin.val_ofNat]; omega
    rw [run_succ_of_step 0 (step_round (s := { s with V := rounds s.W s.V n, t := Fin.ofNat 64 n })
      ⟨h.noFault, h.noInput, h.running⟩ hp), run_zero, stepRound_of_ne (by simp only [hv]; omega)]
    simp only [ht1, rounds]

/-- The 64 ROUND steps of a block. -/
theorem run_rounds {s : State} (h : Turning s) (hp : s.phase = .round) (ht : s.t = 0) :
    run 64 s = .next { s with V := rounds s.W s.V 64, phase := .add, t := 63 } := by
  rw [run_add 1 (run_rounds_prefix h hp ht 63 (Nat.le_refl _)),
    run_succ_of_step 0 (step_round (s := { s with V := rounds s.W s.V 63, t := Fin.ofNat 64 63 })
      ⟨h.noFault, h.noInput, h.running⟩ hp), run_zero, stepRound_of_eq rfl]
  rfl

/-- The state before the ADD step of a block that was read whole. -/
def beforeAdd (B : Vector Byte 64) (s : State) : State :=
  { s with W := schedule B, V := rounds (schedule B) s.H 64, phase := .add, t := 63 }

/-- The 113 steps LOAD, SCHED and ROUND of one block. -/
theorem run_to_add {s : State} (h : Turning s) (hp : s.phase = .load) {B : Vector Byte 64} (hB : currentBlock s = some B) :
    run 113 s = .next (beforeAdd B s) := by
  have h1 : run 1 s = .next (loadBlock B s) := run_succ_of_step 0 (step_load h hp hB)
  have h2 := run_sched (s := loadBlock B s) ⟨h.noFault, h.noInput, h.running⟩ rfl rfl
  have h3 := run_rounds (s := { loadBlock B s with W := expand (loadBlock B s).W 48, phase := .round, t := 0 })
    ⟨h.noFault, h.noInput, h.running⟩ rfl rfl
  rw [show 113 = 1 + (48 + 64) from rfl, run_add _ h1, run_add _ h2, h3]
  simp only [loadBlock_W, loadBlock_V, expand_loadWords, beforeAdd]
  rfl

/-- The 114 steps of one block: H becomes its compression, and the job goes on or its stage ends. -/
theorem run_block {s : State} (h : Turning s) (hp : s.phase = .load) {B : Vector Byte 64} (hB : currentBlock s = some B) :
    run 114 s = .next (stepAdd (beforeAdd B s)) ∧ addBack (beforeAdd B s).H (beforeAdd B s).V = compress s.H B := by
  refine ⟨?_, rfl⟩
  rw [show 114 = 113 + 1 from rfl, run_add _ (run_to_add h hp hB),
    run_succ_of_step 0 (step_add (s := beforeAdd B s) ⟨h.noFault, h.noInput, h.running⟩ rfl), run_zero]

/-- The job keeps BUSY = 1 at each of the steps before ADD ends. -/
theorem busy_within_block {s : State} (h : Turning s) (hp : s.phase = .load) {B : Vector Byte 64}
    (hB : currentBlock s = some B) (k : Nat) (hk : k ≤ 113) : ∃ u, run k s = .next u ∧ u.busy = true := by
  have h1 : run 1 s = .next (loadBlock B s) := run_succ_of_step 0 (step_load h hp hB)
  have hT : Turning (loadBlock B s) := ⟨h.noFault, h.noInput, h.running⟩
  rcases Nat.eq_zero_or_pos k with rfl | hpos
  · exact ⟨s, rfl, h.running⟩
  obtain ⟨k, rfl⟩ : ∃ j, k = 1 + j := ⟨k - 1, by omega⟩
  rw [run_add _ h1]
  rcases Nat.lt_or_ge k 48 with hlt | hge
  · exact ⟨_, run_sched_prefix hT rfl rfl k (by omega), h.running⟩
  obtain ⟨k, rfl⟩ : ∃ j, k = 48 + j := ⟨k - 48, by omega⟩
  rw [run_add _ (run_sched hT rfl rfl)]
  have hT2 : Turning { loadBlock B s with W := expand (loadBlock B s).W 48, phase := .round, t := 0 } :=
    ⟨h.noFault, h.noInput, h.running⟩
  rcases Nat.lt_or_ge k 64 with hlt | hge
  · exact ⟨_, run_rounds_prefix hT2 rfl rfl k (by omega), h.running⟩
  · obtain rfl : k = 64 := by omega
    exact ⟨_, run_rounds hT2 rfl rfl, h.running⟩

end Sys2Proof.Machine
end

