-- ==== Sys2Proof/Tests/Slice0.lean ====
section
/-! SUPPORT. Tests of the model, with expected results from 95_test_vectors.md and 30_encoding.md, and a witness for the
hypotheses of each statement. -/

namespace Sys2Proof.Tests

set_option Elab.async false

open Sys2Proof Sys2Proof.Config Sys2Proof.Machine

/-! ### Helpers -/

/-- The cells of a byte string written from address `a` on. -/
def cells (a : Nat) : List Byte → Memory
  | [] => []
  | b :: bs => (a, b) :: cells (a + 1) bs

/-- The reset state with these bytes at address 0 and this schedule. -/
def begin (m : List Byte) (l : List Input) : State := { State.reset with mem := cells 0 m, inputs := l }

/-- The reset state of the largest MEM, in mode REJECT. -/
def large : State := { State.reset with params := { memLast := 0xFFFFFFFF#32, lengthMode := .reject } }

/-- The schedule in which the host writes this word to CMD. -/
def cmdWord (c : Word) : List Input := [.host (.regWrite 32 0x00 c)]

/-- A next state, or the reset state. -/
def nextOf : Result → State
  | .next t => t
  | _ => State.reset

/-- Whether a step goes on. -/
def goesOn : Result → Bool
  | .next _ => true
  | _ => false

/-- Whether a step ends in this fault. -/
def faultsWith (k : Fault) : Result → Bool
  | .fault j => decide (j = k)
  | _ => false

theorem next_of_goesOn {r : Result} (h : goesOn r = true) : r = .next (nextOf r) := by
  cases r <;> simp [goesOn] at h
  rfl

theorem fault_of_faultsWith {k : Fault} {r : Result} (h : faultsWith k r = true) : r = .fault k := by
  cases r <;> simp [faultsWith] at h; rw [h]

/-- "abc" and "key". -/
def abc : List Byte := [0x61#8, 0x62#8, 0x63#8]
def keyText : List Byte := [0x6b#8, 0x65#8, 0x79#8]

/-! ### Well-formedness -/

theorem test_rsv_not_zero_is_ill_formed : CmdFields.wellFormed { rsv := 0x8000000#28, op := 0x3#4 } = false := by decide
theorem test_reserved_op_is_ill_formed : CmdFields.wellFormed { rsv := 0#28, op := 0x6#4 } = false := by decide
theorem test_last_op_is_well_formed : CmdFields.wellFormed { rsv := 0#28, op := 0x5#4 } = true := by decide

/-! ### Decoding (30_encoding.md R82 to R84) -/

theorem test_decode_nop : decode 0b00000000000000000000000000000000#32 = some .nop := by decide
theorem test_decode_init : decode 0b00000000000000000000000000000001#32 = some .init := by decide
theorem test_decode_block : decode 0b00000000000000000000000000000010#32 = some .block := by decide
theorem test_decode_hash : decode 0b00000000000000000000000000000011#32 = some .hash := by decide
theorem test_decode_keyload : decode 0b00000000000000000000000000000100#32 = some .keyload := by decide
theorem test_decode_hmac : decode 0b00000000000000000000000000000101#32 = some .hmac := by decide
theorem test_decode_first_reserved_op : (decodeNamed 0x00000006#32).toOption = none ∧ decode 0x0000000F#32 = none := by decide
theorem test_decode_rsv_not_zero : decode 0x00000015#32 = none ∧ decode 0x80000003#32 = none := by decide
theorem test_decode_names_the_reason :
    (match decodeNamed 0x00000006#32 with | .error e => e == .reservedOp | .ok _ => false) = true ∧
    (match decodeNamed 0x00000016#32 with | .error e => e == .rsvNotZero | .ok _ => false) = true := by decide
theorem test_table_word_above_32_bits : decodeTableWord 40 0x0100000003 = none ∧ decodeTableWord 32 3 = some .hash := by decide

/-! ### The datapath (95_test_vectors.md V5, V7, V10 to V13) -/

theorem test_sigmas : smallSigma0 0x12345678#32 = 0xe7fce6ee#32 ∧ smallSigma1 0x12345678#32 = 0xa1f78649#32 ∧
    bigSigma0 0x12345678#32 = 0x66146474#32 ∧ bigSigma1 0x12345678#32 = 0x3561abda#32 := by decide
theorem test_choose_majority : choose 0x510e527f#32 0x9b05688c#32 0x1f83d9ab#32 = 0x1f85c98c#32 ∧
    majority 0x510e527f#32 0x9b05688c#32 0x1f83d9ab#32 = 0x1b0758af#32 := by decide
theorem test_length_field_modes :
    lenField .full64 0x20000001 = [0#8, 0#8, 0#8, 1#8, 0#8, 0#8, 0#8, 8#8] ∧
    lenField .trunc32 0x20000001 = [0#8, 0#8, 0#8, 0#8, 0#8, 0#8, 0#8, 8#8] := by decide
theorem test_padded_lengths : paddedLen 55 = 64 ∧ paddedLen 56 = 128 ∧ paddedLen 119 = 128 ∧ paddedLen 120 = 192 := by decide
theorem test_first_round_of_abc : roundStep 0 IV 0x61626380#32 =
    #v[0x5d6aebcd#32, 0x6a09e667#32, 0xbb67ae85#32, 0x3c6ef372#32,
       0xfa2a4622#32, 0x510e527f#32, 0x9b05688c#32, 0x1f83d9ab#32] := by decide +kernel
theorem test_schedule_of_abc : (schedule (padBlock .full64 abc 0))[16] = 0x61626380#32 ∧
    (schedule (padBlock .full64 abc 0))[17] = 0x000f0000#32 ∧ (schedule (padBlock .full64 abc 0))[18] = 0x7da86405#32 := by
  decide +kernel
/-- The source's vector V2. -/
theorem test_sha256_of_abc : sha256Words .full64 abc =
    #v[0xba7816bf#32, 0x8f01cfea#32, 0x414140de#32, 0x5dae2223#32,
       0xb00361a3#32, 0x96177a9c#32, 0xb410ff61#32, 0xf20015ad#32] := by decide +kernel

/-- 95_test_vectors.md V9.4: the empty key and the empty message. -/
theorem test_hmac_of_nothing : hmacWordsOfK0 .full64 (blockKey .full64 []) [] =
    #v[0xb613679a#32, 0x0814d9ec#32, 0x772f95d7#32, 0x78c35fc5#32,
       0xff1697c4#32, 0x93715653#32, 0xc6c71214#32, 0x4292c5ad#32] := by decide +kernel

/-! ### One step of each command (95_test_vectors.md V14, V15) -/

/-- The machine that runs this command word as its first instruction after reset. -/
def fetched (w : Nat) : State := State.reset.withFetchWord 32 w

theorem test_nop_status : statusWord (nextOf (step (fetched 0))) = 0x00000002#32 := by decide +kernel
theorem test_init_status : statusWord (nextOf (step (fetched 1))) = 0x00000002#32 := by decide +kernel
theorem test_init_loads_iv : (nextOf (exec .init { State.reset with H := Vector.replicate 8 0#32 })).H[7] = 0x5be0cd19#32 := by
  decide +kernel
theorem test_block_status : statusWord (nextOf (step (fetched 2))) = 0x00000001#32 := by decide +kernel
theorem test_block_past_the_end :
    statusWord (nextOf (exec .block { State.reset with msgAddr := 193#32 })) = 0x00000030#32 := by decide +kernel
theorem test_hash_status : statusWord (nextOf (step (fetched 3))) = 0x00000001#32 := by decide +kernel
theorem test_hash_range_does_not_wrap :
    statusWord (nextOf (exec .hash { State.reset with msgAddr := 0xFFFFFFF0#32, msgLen := 0x20#32 })) = 0x00000030#32 := by
  decide +kernel
theorem test_keyload_status : statusWord (nextOf (step (fetched 4))) = 0x00000006#32 := by decide +kernel
theorem test_keyload_pads_with_zeros : (nextOf (exec .keyload { begin keyText [] with keyLen := 3#32 })).KBUF.toList.take 4 =
    [0x6b#8, 0x65#8, 0x79#8, 0x00#8] := by decide +kernel
theorem test_hmac_without_key : statusWord (nextOf (step (fetched 5))) = 0x00000020#32 := by decide +kernel
theorem test_hmac_status : statusWord (nextOf (exec .hmac { State.reset with keyValid := true })) = 0x00000005#32 := by
  decide +kernel
theorem test_reserved_word_status : statusWord (nextOf (step (fetched 0x15))) = 0x00000010#32 := by decide +kernel

/-! ### Registers, MEM and faults (95_test_vectors.md V14, V16) -/

theorem test_register_reads_at_reset :
    registerWord State.reset 0x04 = some 0x00000000#32 ∧ registerWord State.reset 0x18 = some 0x00000100#32 ∧
    registerWord State.reset 0x1C = some 0x000000FF#32 ∧ registerWord State.reset 0x20 = some 0x6a09e667#32 := by
  decide +kernel
theorem test_write_while_busy_is_dropped :
    statusWord (nextOf (step { begin [] (cmdWord 0x00000015#32) with busy := true })) = 0x00000009#32 := by decide +kernel
theorem test_memory_keeps_its_form :
    Memory.write (Memory.write (Memory.write [] 7 1#8) 3 2#8) 7 9#8 = [(3, 2#8), (7, 9#8)] := by decide

/-! ### Witnesses: states and operands that meet the hypotheses of each statement -/

/-- A running HASH job of the empty message, at this phase and index. -/
def running (ph : Phase) (i : Fin 64) : State :=
  { State.reset with op := .hash, stage := .hash, nblk := 1, busy := true, phase := ph, t := i }

/-- The end of the last block of a job of this command in this stage. -/
def ending (o : Instr) (st : Stage) (L : Nat) : State :=
  { State.reset with
    op := o, stage := st, srcLen := L, nblk := if st = .block then 1 else numBlocks L, blk := if st = .block then 0 else numBlocks L - 1,
    busy := true, phase := .add, keyValid := decide (o = .hmac), lKeyLen := if o = .keyload then L else 0 }

theorem idle_inv {s : State} (hm : s.mem = []) (he : s.err = 0#4) (hb : s.busy = false) : Inv s :=
  ⟨by rw [hm]; exact Memory.wf_nil, by simp [hm], by simp [he], fun _ => he, by simp [hb]⟩

theorem reset_inv : Inv State.reset := idle_inv rfl rfl rfl

theorem running_inv (ph : Phase) (i : Fin 64) (h : ph = .sched → 16 ≤ i.val) : Inv (running ph i) :=
  ⟨Memory.wf_nil, by simp [running, State.reset, State.powerOn], by simp [running, State.reset, State.powerOn], nofun,
    fun _ => ⟨rfl, rfl, Nat.one_pos, h, Nat.zero_le _, rfl, rfl, by show 1 = numBlocks 0; decide⟩⟩

theorem ending_keyhash_inv : Inv (ending .keyload .keyhash 65) :=
  ⟨Memory.wf_nil, by decide, by decide, by decide, fun _ => ⟨rfl, rfl, by decide, by decide, by decide, by decide, rfl, rfl, by decide, rfl⟩⟩

/-- StepRunsTheDecodedCommand. -/
theorem witness_step_runs : ∃ (s : State) (c : Word) (i : Instr) (rest : List Input),
    s.fault = none ∧ s.inputs = .host (.regWrite 32 0x00 c) :: rest ∧ decode c = some i :=
  ⟨begin [] (cmdWord 5#32), 5#32, .hmac, [], rfl, rfl, by decide⟩

/-- ReservedWordsAreRejectedAsIllegal, DecodeFollowsTheOpcodeMap: both kinds of a reserved word, and a word that is none. -/
theorem witness_reserved : (∀ c, Idle (begin [] (cmdWord c))) ∧
    6 ≤ ((0x00000006#32).extractLsb' 0 4).toNat ∧ 6 ≤ ((0x0000000F#32).extractLsb' 0 4).toNat ∧
    (0x00000010#32).extractLsb' 4 28 ≠ 0#28 ∧ (0x80000003#32).extractLsb' 4 28 ≠ 0#28 :=
  ⟨fun _ => ⟨rfl, rfl⟩, by decide⟩
theorem witness_not_reserved : Idle (begin [] (cmdWord 5#32)) ∧
    ¬ ((5#32).extractLsb' 4 28 ≠ 0#28 ∨ 6 ≤ ((5#32).extractLsb' 0 4).toNat) ∧
    ∃ t, step (begin [] (cmdWord 5#32)) = .next t :=
  ⟨⟨rfl, rfl⟩, by decide, _, next_of_goesOn (by decide +kernel)⟩

/-- CommandWrittenWhileBusyIsDropped. -/
theorem witness_dropped : ∃ s : State, s.fault = none ∧ s.busy = true ∧ s.inputs = .host (.regWrite 32 0x00 0x15#32) :: [] :=
  ⟨{ begin [] (cmdWord 0x15#32) with busy := true }, rfl, rfl, rfl⟩

/-- RejectionWritesOnlyStatus: HMAC without a key. -/
theorem witness_rejection : State.reset.busy = false ∧ exec .hmac State.reset = .next (nextOf (exec .hmac State.reset)) ∧
    (nextOf (exec .hmac State.reset)).err ≠ 0x0#4 ∧ check .hmac State.reset = some .noKey ∧
    hostWriteCmd (encode .hmac) State.reset = exec .hmac State.reset ∧ decode 6#32 = none :=
  ⟨rfl, next_of_goesOn (by decide +kernel), by decide +kernel, rfl, rfl, by decide⟩

/-- FirstFailingCheckIsReported, each clause at a boundary. -/
theorem witness_no_key : State.reset.busy = false ∧ State.reset.keyValid = false := ⟨rfl, rfl⟩
theorem witness_range_failures :
    256 < (256#32).toNat + (1#32).toNat ∧ State.reset.memBytes = 256 ∧ 256 < (193#32).toNat + 64 := by decide +kernel
theorem witness_length_failures : large.busy = false ∧ large.memBytes = 2 ^ 32 ∧ large.params.lengthMode = .reject ∧
    (0#32).toNat + (0x20000000#32).toNat ≤ 2 ^ 32 ∧ 2 ^ 32 ≤ 8 * (0x20000000#32).toNat ∧
    64 < (0x20000000#32).toNat ∧ 2 ^ 32 ≤ 8 * (64 + (0x1FFFFFC0#32).toNat) := by decide +kernel
theorem witness_accepted : ∀ i ∈ [Instr.nop, .init, .block, .hash, .keyload, .hmac],
    exec i { large with keyValid := true, msgAddr := 0xFFFFFFC0#32 } =
      .next (nextOf (exec i { large with keyValid := true, msgAddr := 0xFFFFFFC0#32 })) := by
  intro i h; exact next_of_goesOn (by revert i; decide +kernel)
theorem witness_accepted_lengths : 8 * (0x1FFFFFFF#32).toNat < 2 ^ 32 ∧ 8 * (64 + (0x1FFFFFBF#32).toNat) < 2 ^ 32 ∧
    (0xFFFFFFC0#32).toNat + 64 ≤ large.memBytes := by decide +kernel

/-- CommandsLeaveTheRestAlone: each command goes on; the key length on both sides of 64. -/
theorem witness_commands_frame : ∀ i ∈ [Instr.nop, .init, .block, .hash, .keyload, .hmac],
    exec i { State.reset with keyLen := 65#32 } = .next (nextOf (exec i { State.reset with keyLen := 65#32 })) ∧
    exec i State.reset = .next (nextOf (exec i State.reset)) := by
  intro i h; exact ⟨next_of_goesOn (by revert i; decide +kernel), next_of_goesOn (by revert i; decide +kernel)⟩

/-- NopCompletesAtOnce, InitLoadsTheInitialHashState. -/
theorem witness_idle : State.reset.busy = false := rfl

/-- BlockStartsOneRawBlock: the last 64 bytes of MEM. -/
theorem witness_block : ({ State.reset with msgAddr := 192#32 } : State).msgAddr.toNat + 64 ≤ State.reset.memBytes := by decide

/-- HashStartsThePaddedMessage: the empty message past the last byte, and the longest one of mode REJECT. -/
theorem witness_hash : (256#32).toNat + (0#32).toNat ≤ State.reset.memBytes ∧
    (0#32).toNat + (0x1FFFFFFF#32).toNat ≤ large.memBytes ∧ 8 * (0x1FFFFFFF#32).toNat < 2 ^ 32 := by decide +kernel

/-- ShortKeyloadCompletesAtOnce: keys of 0 and of 64 bytes. -/
theorem witness_short_keys : holdsBytes State.reset 256 [] ∧
    holdsBytes (begin (List.replicate 64 0xAA#8) []) 0 (List.replicate 64 0xAA#8) :=
  ⟨fun _ h => absurd h (Nat.not_lt_zero _), by unfold holdsBytes; decide +kernel⟩

/-- ShortKeyloadFaultsOnAnUnwrittenByte: a key of one byte. -/
theorem witness_unwritten_key : ∃ s : State, s.busy = false ∧ s.keyAddr.toNat + s.keyLen.toNat ≤ s.memBytes ∧
    s.keyLen.toNat ≤ 64 ∧ 0 < s.keyLen.toNat ∧ s.mem.read (s.keyAddr.toNat + 0) = none :=
  ⟨{ State.reset with keyLen := 1#32 }, rfl, by decide, by decide, by decide, rfl⟩

/-- LongKeyloadStartsTheKeyhashStage: a key of 65 bytes; in mode REJECT the longest key. -/
theorem witness_long_key : (0#32).toNat + (65#32).toNat ≤ State.reset.memBytes ∧ 64 < (65#32).toNat ∧
    8 * (0x1FFFFFFF#32).toNat < 2 ^ 32 := by decide +kernel

/-- HmacStartsTheInnerStage. -/
theorem witness_hmac : ∃ s : State, s.busy = false ∧ s.keyValid = true ∧ s.msgAddr.toNat + s.msgLen.toNat ≤ s.memBytes ∧
    (s.params.lengthMode = .reject → 8 * (64 + s.msgLen.toNat) < 2 ^ 32) :=
  ⟨{ large with keyValid := true, msgLen := 0x1FFFFFBF#32 }, rfl, rfl, by decide +kernel, by decide +kernel⟩

/-- LoadDecodesTheBlockBigEndian: each stage, with the first and the last byte of a buffer, and the first and last pad byte. -/
theorem witness_stream : ∀ st : Stage, ∃ s : State, s.stage = st ∧ 0 < s.srcLen ∧ s.srcLen - 1 < s.srcLen ∧
    s.srcLen ≤ s.srcLen ∧ s.srcLen < paddedLen s.srcLen ∧ s.srcLen ≤ 127 ∧ 127 < paddedLen s.srcLen :=
  fun st => ⟨{ State.reset with stage := st, srcLen := 65 }, rfl, Nat.zero_lt_succ 64, Nat.lt_succ_self 64, Nat.le_refl 65,
    (by decide : 65 < paddedLen 65), (by decide : 65 ≤ 127), (by decide : 127 < paddedLen 65)⟩
theorem test_unwritten_bytes_stop_the_load :
    faultsWith .unwrittenRead (sequencerStep { running .load 0 with op := .block, stage := .block }) = true ∧
    faultsWith .unwrittenRead (sequencerStep { running .load 0 with srcLen := 1 }) = true ∧
    faultsWith .unwrittenRead (sequencerStep { running .load 0 with stage := .keyhash, srcLen := 65 }) = true := by
  decide +kernel

/-- LoadDecodesTheBlockBigEndian: a block that is all written, and one that is not. -/
theorem witness_load : (running .load 0).busy = true ∧ (running .load 0).phase = .load ∧
    (∀ j (h : j < 64), streamByte (running .load 0) (64 * (running .load 0).blk + j) = some (padBlock .full64 [] 0)[j]) ∧
    ∃ j < 64, streamByte { running .load 0 with srcLen := 1 } (64 * 0 + j) = none :=
  ⟨rfl, rfl, by decide +kernel, 0, by decide, by decide +kernel⟩

/-- SchedWritesOneScheduleEntry, RoundRotatesTheWorkingRegisters: the first and the last index. -/
theorem witness_sched : (running .sched 16).busy = true ∧ (running .sched 63).phase = .sched ∧
    16 ≤ (running .sched 16).t.val ∧ 16 ≤ (running .sched 63).t.val := by decide
theorem witness_round : ∃ t1 t2 : Word,
    t1 = (running .round 63).V[7] + bigSigma1 (running .round 63).V[4]
      + choose (running .round 63).V[4] (running .round 63).V[5] (running .round 63).V[6]
      + K[(running .round 63).t] + (running .round 63).W[(running .round 63).t] ∧
    t2 = bigSigma0 (running .round 63).V[0]
      + majority (running .round 63).V[0] (running .round 63).V[1] (running .round 63).V[2] := ⟨_, _, rfl, rfl⟩

/-- AddEndsTheBlockOrTheStage: a block that is not the last, and the last one of each stage. -/
theorem witness_add : ∃ s : State, ∃ Hn : Vector Word 8, s.busy = true ∧ s.phase = .add ∧
    (∀ (i : Nat) (h : i < 8), Hn[i] = s.H[i] + s.V[i]) ∧ s.blk + 1 < s.nblk :=
  ⟨{ running .add 63 with nblk := 2 }, addBack IV (Vector.replicate 8 0#32), rfl, rfl, by decide +kernel, by decide⟩
theorem witness_add_last : ∀ st : Stage, (ending .hmac st 96).busy = true ∧ (ending .hmac st 96).phase = .add ∧
    (ending .hmac st 96).stage = st ∧ (ending .hmac st 96).nblk ≤ (ending .hmac st 96).blk + 1 := by
  intro st; cases st <;> exact ⟨rfl, rfl, rfl, by decide⟩

/-- SequencerStepsExactlyWhileBusy. -/
theorem witness_turn : ∀ b : Bool, ∃ s : State, s.fault = none ∧ s.inputs = .sequencer :: [] ∧ s.busy = b :=
  fun b => ⟨{ State.reset with inputs := [.sequencer], busy := b }, rfl, rfl, rfl⟩

/-- SequencerLeavesTheRestAlone: an idle turn, and each phase. -/
theorem witness_idle_turn : State.reset.busy = false ∧ sequencerStep State.reset = .next State.reset := ⟨rfl, rfl⟩
theorem witness_sequencer_frame : ∀ ph : Phase,
    sequencerStep (running ph 63) = .next (nextOf (sequencerStep (running ph 63))) := by
  intro ph; cases ph <;> exact next_of_goesOn (by decide +kernel)

/-- ScheduleDecodesThenExpands, SigmasXorTheirRotatedBits: the ends of the ranges. -/
theorem witness_index_ranges : 0 < 16 ∧ 15 < 16 ∧ 16 ≤ 16 ∧ 63 < 64 ∧ 0 < 32 ∧ 31 < 32 := by decide

/-- CompressIsSixtyFourRoundsAndTheAddBack. -/
theorem witness_compress : ∃ v : Nat → Vector Word 8, v 0 = IV ∧ ∀ (t : Nat) (h : t < 64),
    v (t + 1) = roundStep ⟨t, h⟩ (v t) (schedule (Vector.replicate 64 0#8))[t] := by
  refine ⟨rounds (schedule (Vector.replicate 64 0#8)) IV, rfl, fun t h => ?_⟩
  have ht : Fin.ofNat 64 t = ⟨t, h⟩ := Fin.ext (Nat.mod_eq_of_lt h)
  simp only [rounds, ht]; rfl

/-- PaddedLengthIsTheSmallestMultiple. -/
theorem witness_padded_length : 64 % 64 = 0 ∧ 55 + 9 ≤ 64 ∧ 128 % 64 = 0 ∧ 56 + 9 ≤ 128 := by decide

/-- PadByteIsTheByteOfThePaddedBuffer. -/
theorem witness_pad_byte : (∀ k (h : k < abc.length), abc[k]? = some abc[k]) ∧ 63 < (pad .full64 abc).length := by
  decide +kernel

/-- LengthFieldHoldsTheBitLength. -/
theorem witness_length_field : 8 * (2 ^ 61 - 1) < 2 ^ 64 ∧ 8 * (2 ^ 29 - 1) < 2 ^ 32 := by decide +kernel

theorem witness_length_clause : paddedOperand .hash { large with msgLen := 0x20000000#32 } = some 0x20000000 ∧
    ({ large with msgLen := 0x20000000#32 } : State).msgAddr.toNat + (0x20000000#32).toNat ≤ large.memBytes ∧
    2 ^ 32 ≤ 8 * 0x20000000 := by decide +kernel

/-- TrailingZerosOfAShortKeyDoNotMatter. -/
theorem witness_trailing_zeros : keyText.length + 61 ≤ 64 := by decide

/-- BlockJobCompressesItsBytes. -/
theorem witness_block_job : ∃ (s : State) (B : Vector Byte 64),
    Idle s ∧ s.inputs = [.host (.regWrite 32 0x00 0x00000002#32)] ∧ s.msgAddr.toNat + 64 ≤ s.memBytes ∧
    holdsBytes s s.msgAddr.toNat B.toList :=
  ⟨begin (List.replicate 64 0xFF#8) (cmdWord 2#32), Vector.replicate 64 0xFF#8, ⟨rfl, rfl⟩, rfl, by decide,
    by unfold holdsBytes; decide +kernel⟩

/-- HashJobComputesSha256. -/
theorem witness_hash_job : ∃ (s : State) (m : List Byte),
    Idle s ∧ s.inputs = [.host (.regWrite 32 0x00 0x00000003#32)] ∧ m.length = s.msgLen.toNat ∧
    s.msgAddr.toNat + m.length ≤ s.memBytes ∧ (s.params.lengthMode = .reject → 8 * m.length < 2 ^ 32) ∧
    holdsBytes s s.msgAddr.toNat m :=
  ⟨{ begin abc (cmdWord 3#32) with msgLen := 3#32 }, abc, ⟨rfl, rfl⟩, rfl, rfl, by decide, by decide,
    by unfold holdsBytes; decide +kernel⟩

/-- KeyloadHoldsTheBlockSizedKey: a short key and a long one. -/
theorem witness_keyload_job : ∀ L ∈ [3, 64, 65], ∃ (s : State) (key : List Byte), key.length = L ∧
    Idle s ∧ s.inputs = [.host (.regWrite 32 0x00 0x00000004#32)] ∧ key.length = s.keyLen.toNat ∧
    s.keyAddr.toNat + key.length ≤ s.memBytes ∧
    (s.params.lengthMode = .reject → 64 < key.length → 8 * key.length < 2 ^ 32) ∧ holdsBytes s s.keyAddr.toNat key := by
  intro L hL
  refine ⟨{ begin (List.replicate L 0xAA#8) (cmdWord 4#32) with keyLen := BitVec.ofNat 32 L }, List.replicate L 0xAA#8,
    List.length_replicate, ⟨rfl, rfl⟩, rfl, ?_, ?_, nofun, ?_⟩
  · revert L; decide
  · revert L; decide
  · unfold holdsBytes; revert L; decide +kernel

/-- HmacJobComputesTheCode: the bytes 0, 63, 64 and 95 of the OUTER buffer, and 0 to 64 of an INNER one; the last byte of
each buffer is one below its length. -/
theorem witness_hmac_buffers : ∀ st ∈ [Stage.inner, .outer], ∃ s : State, s.stage = st ∧ 0 < s.srcLen ∧ 63 < s.srcLen ∧
    64 ≤ s.srcLen - 1 ∧ s.srcLen - 1 < s.srcLen := by
  intro st _
  exact ⟨{ State.reset with stage := st, srcLen := if st = .inner then 65 else 96 }, rfl,
    by cases st <;> decide, by cases st <;> decide, by cases st <;> decide, by cases st <;> decide⟩

/-- 95_test_vectors.md V13: the first bytes of the inner and of the outer key block of "key". -/
theorem test_key_blocks : (innerBuf (blockKey .full64 keyText) []).take 4 = [0x5d#8, 0x53#8, 0x4f#8, 0x36#8] ∧
    (outerBuf (blockKey .full64 keyText) []).take 4 = [0x37#8, 0x39#8, 0x25#8, 0x5c#8] := by decide +kernel
theorem test_stream_of_the_key_blocks :
    streamByte { State.reset with stage := .inner, srcLen := 64, KBUF := Vector.replicate 64 0x6b#8 } 0 = some 0x5d#8 ∧
    streamByte { State.reset with stage := .outer, srcLen := 96, KBUF := Vector.replicate 64 0x6b#8 } 0 = some 0x37#8 := by
  decide +kernel

/-- HmacJobComputesTheCode: the job. -/
theorem witness_hmac_job : ∃ (s : State) (key m : List Byte),
    Idle s ∧ s.inputs = [.host (.regWrite 32 0x00 0x00000005#32)] ∧ s.keyValid = true ∧
    s.KBUF.toList = blockKey s.params.lengthMode key ∧ m.length = s.msgLen.toNat ∧
    s.msgAddr.toNat + m.length ≤ s.memBytes ∧
    (s.params.lengthMode = .reject → 8 * (64 + m.length) < 2 ^ 32) ∧ holdsBytes s s.msgAddr.toNat m :=
  ⟨{ begin abc (cmdWord 5#32) with msgLen := 3#32, keyValid := true }, [], abc, ⟨rfl, rfl⟩, rfl, rfl, by decide +kernel, rfl,
    by decide, by decide, by unfold holdsBytes; decide +kernel⟩

/-- StatusShowsItsFields, InfoAndMemLastAreConstants, DigestShowsTheHashStateWhileIdle, OperandRegistersHoldTheLastWrite,
CmdReadsAsZero, MalformedRegisterAccessFaults: an access of any width and offset is the next step, idle or busy. -/
theorem witness_register_access : ∀ (width off : Nat) (v : Word) (b : Bool), ∃ s s' : State, s.fault = none ∧ s.busy = b ∧
    s.inputs = .host (.regRead width off) :: [] ∧ s'.fault = none ∧ s'.busy = b ∧
    s'.inputs = .host (.regWrite width off v) :: [] :=
  fun width off v b => ⟨{ begin [] [.host (.regRead width off)] with busy := b },
    { begin [] [.host (.regWrite width off v)] with busy := b }, rfl, rfl, rfl, rfl, rfl, rfl⟩
theorem witness_register_kept : step State.reset = .next State.reset ∧ nextInput State.reset ≠ .host .reset ∧
    (∀ v, nextInput State.reset ≠ .host (.regWrite 32 0x08 v)) ∧ (∀ v, nextInput State.reset ≠ .host (.regWrite 32 0x0C v)) ∧
    (∀ v, nextInput State.reset ≠ .host (.regWrite 32 0x10 v)) ∧ ∀ v, nextInput State.reset ≠ .host (.regWrite 32 0x14 v) :=
  ⟨rfl, by decide, fun _ => nofun, fun _ => nofun, fun _ => nofun, fun _ => nofun⟩
theorem witness_length_modes : ∀ m : LengthMode, ∃ s : State, s.fault = none ∧ s.params.lengthMode = m ∧
    s.inputs = .host (.regRead 32 0x18) :: [] :=
  fun m => ⟨{ begin [] [.host (.regRead 32 0x18)] with params := { memLast := 255#32, lengthMode := m } }, rfl, rfl, rfl⟩

/-- HostMemoryWriteStoresOneByte: outside MEM, inside and just outside the range of a running job of each command, idle. -/
theorem witness_memory_write : ∀ o ∈ [Instr.block, .hash, .keyload, .hmac], ∀ a : Nat, ∃ s : State,
    s.fault = none ∧ s.inputs = .host (.memWrite a 0xAA#8) :: [] ∧ s.op = o ∧ s.busy = true ∧ s.memBytes = 256 ∧
    (o = .block → s.lMsgAddr = 16) ∧ (o = .hash ∨ o = .hmac → s.lMsgAddr = 16 ∧ s.lMsgAddr + s.lMsgLen = 19) ∧
    (o = .keyload → s.lKeyAddr = 16 ∧ s.lKeyAddr + s.lKeyLen = 81) := by
  intro o _ a
  exact ⟨{ begin [] [.host (.memWrite a 0xAA#8)] with
      op := o, busy := true, lMsgAddr := 16, lMsgLen := 3, lKeyAddr := 16, lKeyLen := 65 },
    rfl, rfl, rfl, rfl, rfl, fun _ => rfl, fun _ => ⟨rfl, rfl⟩, fun _ => ⟨rfl, rfl⟩⟩
theorem witness_memory_write_idle : (begin [] [.host (.memWrite 255 0xAA#8)]).busy = false ∧
    255 < (begin [] [.host (.memWrite 255 0xAA#8)]).memBytes := by decide

/-- HostMemoryReadReturnsTheByte. -/
theorem witness_memory_read : (begin abc [.host (.memRead 2)]).mem.read 2 = some 0x63#8 ∧
    (begin abc [.host (.memRead 3)]).mem.read 3 = none ∧ (begin abc []).memBytes ≤ 256 ∧ 2 < (begin abc []).memBytes := by decide

/-- OnlyHostWritesChangeMemory, OverrunRecordsDroppedCommands, OnlyTakenCommandsChangeTheErrorCode. -/
theorem witness_steps : ∀ i ∈ [Input.host .reset, .host (.regWrite 32 0x00 6#32), .host (.memWrite 0 1#8), .sequencer],
    step (begin [] [i]) = .next (nextOf (step (begin [] [i]))) := by
  intro i h; exact next_of_goesOn (by revert i; decide +kernel)
theorem witness_step_kinds : isCmdWrite (.host (.regWrite 32 0x00 6#32)) = true ∧ isCmdWrite (.host (.memWrite 0 1#8)) = false ∧
    nextInput (begin [] [.sequencer]) ≠ .host .reset := by decide

/-- ResetRestoresTheResetValues: also while busy; and a faulted state. -/
theorem witness_reset : ∃ s : State, s.fault = none ∧ s.busy = true ∧ s.inputs = .host .reset :: [] :=
  ⟨{ begin [] [.host .reset] with busy := true }, rfl, rfl, rfl⟩
theorem witness_faulted : ∃ s : State, s.fault = some .unwrittenRead ∧ s.inputs = .host .reset :: [] :=
  ⟨{ begin [] [.host .reset] with fault := some .unwrittenRead }, rfl, rfl⟩

/-- AFaultIsFinal, EveryFaultHasItsCause: a step that raises each kind. -/
theorem witness_faults :
    step (begin [] [.host (.regRead 16 0x04)]) = .fault .hostAccess ∧
    step { running .load 0 with msgLen := 0#32, lMsgLen := 1, inputs := [.host (.memWrite 0 1#8)] } = .fault .memWriteWhileBusy ∧
    step (begin abc [.host (.memRead 3)]) = .fault .unwrittenRead :=
  ⟨fault_of_faultsWith (by decide +kernel), fault_of_faultsWith (by decide +kernel), fault_of_faultsWith (by decide +kernel)⟩
theorem witness_fault_inv : (begin [] [.host (.memRead 3)]).fault = none ∧ Inv (begin [] [.host (.memRead 3)]) ∧
    step (begin [] [.host (.memRead 3)]) = .fault .unwrittenRead :=
  ⟨rfl, idle_inv rfl rfl rfl, fault_of_faultsWith (by decide +kernel)⟩

/-- EveryStepKeepsTheInvariant: a step of a running job. -/
theorem witness_inv_step : Inv (running .load 0) ∧ step (running .load 0) = .next (nextOf (step (running .load 0))) :=
  ⟨running_inv .load 0 (nofun), next_of_goesOn (by decide +kernel)⟩

/-- OnlyKeyloadAndResetChangeTheKey: the end of a long KEYLOAD. -/
theorem witness_key_change : Inv (ending .keyload .keyhash 65) ∧
    step (ending .keyload .keyhash 65) = .next (nextOf (step (ending .keyload .keyhash 65))) ∧
    (nextOf (step (ending .keyload .keyhash 65))).keyValid ≠ (ending .keyload .keyhash 65).keyValid :=
  ⟨ending_keyhash_inv, next_of_goesOn (by decide +kernel), by decide +kernel⟩

/-- HashStateHasFewWriters. -/
theorem witness_hash_state_change : ∃ s t : State, step s = .next t ∧ t.H ≠ s.H :=
  ⟨{ begin [] (cmdWord 1#32) with H := Vector.replicate 8 0#32 }, _, next_of_goesOn (by decide +kernel), by decide +kernel⟩

/-- BusyRisesAndFallsWithAJob, JobResultsAreWrittenWhenBusyFalls: BUSY rises, and falls at the end of a job. -/
theorem witness_busy_rises : Inv (begin [] (cmdWord 3#32)) ∧
    step (begin [] (cmdWord 3#32)) = .next (nextOf (step (begin [] (cmdWord 3#32)))) ∧
    (begin [] (cmdWord 3#32)).busy = false ∧ (nextOf (step (begin [] (cmdWord 3#32)))).busy = true :=
  ⟨idle_inv rfl rfl rfl, next_of_goesOn (by decide +kernel), rfl, by decide +kernel⟩
theorem witness_busy_falls : Inv (running .add 63) ∧ step (running .add 63) = .next (nextOf (step (running .add 63))) ∧
    (running .add 63).busy = true ∧ (nextOf (step (running .add 63))).busy = false ∧
    nextInput (running .add 63) ≠ .host .reset :=
  ⟨running_inv .add 63 (nofun), next_of_goesOn (by decide +kernel), rfl, by decide +kernel, by decide⟩

/-- JobResultsAreWrittenWhenBusyFalls: the end of a long KEYLOAD; `witness_busy_falls` is that of a HASH. -/
theorem witness_keyhash_ends : Inv (ending .keyload .keyhash 65) ∧
    step (ending .keyload .keyhash 65) = .next (nextOf (step (ending .keyload .keyhash 65))) ∧
    (ending .keyload .keyhash 65).busy = true ∧ (nextOf (step (ending .keyload .keyhash 65))).busy = false ∧
    nextInput (ending .keyload .keyhash 65) ≠ .host .reset ∧ (ending .keyload .keyhash 65).stage = .keyhash ∧
    (running .add 63).stage ≠ .keyhash :=
  ⟨ending_keyhash_inv, next_of_goesOn (by decide +kernel), rfl, by decide +kernel, by decide, rfl, by decide⟩

/-- HostAccessesDoNotDisturbAJob: a write of MEM outside the range. -/
theorem witness_access_while_busy : (running .load 0).busy = true ∧ HostAccess.memWrite 0 1#8 ≠ .reset ∧
    hostStep (.memWrite 0 1#8) (running .load 0) = .next (nextOf (hostStep (.memWrite 0 1#8) (running .load 0))) :=
  ⟨rfl, by decide, next_of_goesOn (by decide +kernel)⟩

/-- SequencerStepDependsOnlyOnTheJob: two states that differ in a byte outside the range and in OVERRUN. -/
theorem witness_same_job : ∃ s s' : State, Inv s ∧ Inv s' ∧ s.busy = true ∧ SameJob s s' ∧ s ≠ s' ∧
    sequencerStep s = .next (nextOf (sequencerStep s)) :=
  ⟨running .load 0, { running .load 0 with mem := [(0, 1#8)], overrun := true },
    running_inv .load 0 (nofun),
    ⟨List.pairwise_singleton _ _, by simp [running, State.reset, State.powerOn, State.memBytes], by decide,
      nofun, fun _ => ⟨rfl, rfl, Nat.one_pos, nofun, by decide, rfl, rfl, rfl⟩⟩, rfl,
    ⟨rfl, rfl, rfl, rfl, rfl, rfl, rfl, rfl, rfl, rfl, rfl, ⟨rfl, rfl, rfl, rfl, rfl, rfl⟩, ⟨rfl, rfl, rfl, rfl⟩, rfl,
      fun a h => by simp [inActiveRange, activeRange, running, State.reset, State.powerOn] at h⟩,
    fun h => absurd (congrArg State.overrun h) (by decide), next_of_goesOn (by decide +kernel)⟩

/-- HiddenRegistersCannotBeRead: a read that goes on and one that faults. -/
theorem witness_hidden : isCmdWrite (.host (.regRead 32 0x04)) = false ∧
    hostStep (.regRead 32 0x04) State.reset = .next (nextOf (hostStep (.regRead 32 0x04) State.reset)) ∧
    hostStep (.memRead 3) State.reset = .fault .unwrittenRead :=
  ⟨rfl, next_of_goesOn (by decide +kernel), fault_of_faultsWith (by decide +kernel)⟩

end Sys2Proof.Tests
end

/-! The state's registers (10_state.md): the kinds of step, what each leaves unchanged, and which operations write H, the
key and the STATUS fields; then the statements about them. -/

namespace Sys2Proof.Machine

open Sys2Proof.Config

/-! ### Command words -/

/-- A command word is RSV above OP (30_encoding.md R80). -/
theorem rsvField_append_opField (c : Word) : rsvField c ++ opField c = c :=
  (BitVec.extractLsb'_append_extractLsb'_eq_extractLsb' (start₁ := 0) (len₁ := 4) (len₂ := 28) (x := c) rfl).trans
    BitVec.extractLsb'_eq_self

/-- Each of the six OP values names one command (30_encoding.md R82). -/
theorem eq_opOfCommand_of_commandOfOp :
    ∀ (op : BitVec 4) (i : Instr), commandOfOp op = some i → op = opOfCommand i := by
  intro op i; cases i <;> revert op <;> decide

/-- Only the word of a command decodes to it (30_encoding.md R84). -/
theorem eq_encode_of_decode {c : Word} {i : Instr} (h : decode c = some i) : c = encode i := by
  unfold decode decodeNamed at h
  by_cases hr : rsvField c = 0#28
  · cases ho : commandOfOp (opField c) with
    | none => simp [hr, ho] at h
    | some j =>
      obtain rfl : j = i := by simpa [hr, ho] using h
      rw [← rsvField_append_opField c, hr, eq_opOfCommand_of_commandOfOp _ _ ho]; rfl
  · simp [hr] at h

/-! ### The agent that steps -/

/-- The four kinds of step that answer `t`, each on the state with its entry taken off the schedule: the sequencer's
turn, reset, a CMD write, and any other host access (00_scope.md R14). -/
inductive StepKind (s t : State) : Prop
  | turn (hn : nextInput s = .sequencer) (h : sequencerStep { s with inputs := s.inputs.tail } = .next t)
  | reset (hn : nextInput s = .host .reset) (h : t = hostReset { s with inputs := s.inputs.tail })
  | command (c : Word) (hn : nextInput s = .host (.regWrite 32 0x00 c))
      (h : hostWriteCmd c { s with inputs := s.inputs.tail } = .next t)
  | access (a : HostAccess) (hn : nextInput s = .host a) (hr : a ≠ .reset) (hc : isCmdWrite (.host a) = false)
      (h : hostStep a { s with inputs := s.inputs.tail } = .next t)

/-- Whether a host access is a CMD write. -/
theorem isCmdWrite_host_iff (a : HostAccess) : isCmdWrite (.host a) = true ↔ ∃ c, a = .regWrite 32 0x00 c := by
  constructor
  · intro h
    unfold isCmdWrite at h
    split at h
    · rename_i c hc; cases hc; exact ⟨c, rfl⟩
    · cases h
  · rintro ⟨c, rfl⟩; rfl

/-- Every host access is reset, a CMD write or neither. -/
theorem StepKind.of_host {s t : State} {a : HostAccess} (hn : nextInput s = .host a)
    (h : hostStep a { s with inputs := s.inputs.tail } = .next t) : StepKind s t := by
  by_cases hr : a = .reset
  · subst hr; cases h; exact .reset hn rfl
  · cases hc : isCmdWrite (.host a) with
    | true => obtain ⟨c, rfl⟩ := (isCmdWrite_host_iff a).1 hc; exact .command c hn h
    | false => exact .access a hn hr hc h

/-- Every step that answers a next state is of one of the four kinds. -/
theorem stepKind_of_step {s t : State} (h : step s = .next t) : StepKind s t := by
  obtain ⟨-, ⟨hi, h⟩ | ⟨rest, hi, h⟩ | ⟨a, rest, hi, h⟩⟩ := step_cases h
  · refine .turn (by rw [nextInput, hi]; rfl) ?_
    rw [hi, List.tail_nil, ← hi]; exact h
  · exact .turn (by rw [nextInput, hi]; rfl) (by rw [hi]; exact h)
  · exact .of_host (a := a) (by rw [nextInput, hi]; rfl) (by rw [hi]; exact h)

/-! ### What each kind of step leaves unchanged -/

/-- A host access other than reset and a CMD write writes only the operand registers, MEM and the model's read port. -/
theorem hostStep_frame {a : HostAccess} {s t : State} (hr : a ≠ .reset) (hc : isCmdWrite (.host a) = false)
    (h : hostStep a s = .next t) :
    t = { s with
      msgAddr := t.msgAddr, msgLen := t.msgLen, keyAddr := t.keyAddr, keyLen := t.keyLen, mem := t.mem,
      readData := t.readData, draws := t.draws } := by
  cases a with
  | regRead width off => obtain ⟨-, w, -, ⟨-, rfl⟩ | ⟨-, rfl⟩⟩ := hostRegRead_cases h <;> rfl
  | regWrite width off v =>
    obtain ⟨rfl, ⟨rfl, -⟩ | ⟨-, h⟩⟩ := hostRegWrite_cases h
    · cases hc
    · obtain ⟨-, rfl⟩ | ⟨-, rfl⟩ | ⟨-, rfl⟩ | ⟨-, rfl⟩ | ⟨-, -, -, -, -, rfl⟩ := writeRegister_cases h <;> rfl
  | memRead addr => obtain ⟨b, -, -, rfl⟩ := hostMemRead_cases h; rfl
  | memWrite addr v => obtain ⟨-, -, rfl⟩ := hostMemWrite_cases h; rfl
  | reset => exact absurd rfl hr

/-- An operand register keeps its value at every host access but reset, a CMD write and the write that names it. -/
theorem hostStep_keeps_operands {a : HostAccess} {s t : State} (hr : a ≠ .reset) (hc : isCmdWrite (.host a) = false)
    (h : hostStep a s = .next t) :
    ((∀ v, a ≠ .regWrite 32 0x08 v) → t.msgAddr = s.msgAddr) ∧ ((∀ v, a ≠ .regWrite 32 0x0C v) → t.msgLen = s.msgLen) ∧
      ((∀ v, a ≠ .regWrite 32 0x10 v) → t.keyAddr = s.keyAddr) ∧ ((∀ v, a ≠ .regWrite 32 0x14 v) → t.keyLen = s.keyLen) := by
  cases a with
  | regRead width off =>
    obtain ⟨-, w, -, ⟨-, rfl⟩ | ⟨-, rfl⟩⟩ := hostRegRead_cases h <;> simp
  | regWrite width off v =>
    obtain ⟨rfl, ⟨rfl, -⟩ | ⟨-, h⟩⟩ := hostRegWrite_cases h
    · cases hc
    · obtain ⟨rfl, rfl⟩ | ⟨rfl, rfl⟩ | ⟨rfl, rfl⟩ | ⟨rfl, rfl⟩ | ⟨-, -, -, -, -, rfl⟩ := writeRegister_cases h <;> simp
  | memRead addr => obtain ⟨b, -, -, rfl⟩ := hostMemRead_cases h; simp
  | memWrite addr v => obtain ⟨-, -, rfl⟩ := hostMemWrite_cases h; simp
  | reset => exact absurd rfl hr

/-- SCHED writes W, phase and t only (41_engine_commands.md R155). -/
theorem stepSched_frame (s : State) :
    stepSched s = { s with W := (stepSched s).W, phase := (stepSched s).phase, t := (stepSched s).t } := by
  unfold stepSched; split <;> rfl

/-- ROUND writes V, phase and t only (41_engine_commands.md R156). -/
theorem stepRound_frame (s : State) :
    stepRound s = { s with V := (stepRound s).V, phase := (stepRound s).phase, t := (stepRound s).t } := by
  unfold stepRound; split <;> rfl

/-- The four ends of ADD: the next block, the end of the job, the end of KEYHASH and the start of OUTER
(41_engine_commands.md R157, R158). -/
inductive AddEnd (s : State) : State → Prop
  | nextBlock (hlt : s.blk + 1 < s.nblk) :
      AddEnd s { s with H := addBack s.H s.V, blk := s.blk + 1, phase := .load }
  | done (hle : s.nblk ≤ s.blk + 1) (hst : s.stage = .block ∨ s.stage = .hash ∨ s.stage = .outer) :
      AddEnd s { s with H := addBack s.H s.V, busy := false, done := true }
  | keyDone (hle : s.nblk ≤ s.blk + 1) (hst : s.stage = .keyhash) :
      AddEnd s { s with
        H := addBack s.H s.V, KBUF := keyOfDigest (addBack s.H s.V), keyValid := true, busy := false, done := true }
  | outer (hle : s.nblk ≤ s.blk + 1) (hst : s.stage = .inner) :
      AddEnd s (startInvocation .outer 96 { s with H := addBack s.H s.V, IDIG := addBack s.H s.V })

/-- Every ADD step ends in one of the four ways. -/
theorem addEnd_stepAdd (s : State) : AddEnd s (stepAdd s) := by
  obtain ⟨hlt, h⟩ | ⟨hle, h⟩ := stepAdd_cases s
  · rw [h]; exact .nextBlock hlt
  · obtain ⟨hst, he⟩ | ⟨hst, he⟩ | ⟨hst, he⟩ := stageEnd_cases (addBack s.H s.V) { s with H := addBack s.H s.V }
    · rw [h, he]; exact .done hle hst
    · rw [h, he]; exact .keyDone hle hst
    · rw [h, he]; exact .outer hle hst

/-- The sequencer's turn is ADD, or it writes V, W, phase and t only. -/
theorem sequencerStep_add_or_frame {s t : State} (h : sequencerStep s = .next t) :
    (s.busy = true ∧ s.phase = .add ∧ AddEnd s t) ∨ t = { s with V := t.V, W := t.W, phase := t.phase, t := t.t } := by
  obtain ⟨-, rfl⟩ | ⟨hb, ⟨-, B, -, rfl⟩ | ⟨-, rfl⟩ | ⟨-, rfl⟩ | ⟨hp, rfl⟩⟩ := sequencerStep_cases h
  · exact .inr rfl
  · exact .inr rfl
  · exact .inr (by rw [stepSched_frame])
  · exact .inr (by rw [stepRound_frame])
  · exact .inl ⟨hb, hp, addEnd_stepAdd s⟩

/-- The sequencer writes no operand register, latched operand, OVERRUN, ERR, op, MEM or field of the model. -/
theorem sequencerStep_frame {s t : State} (h : sequencerStep s = .next t) :
    t = { s with
      busy := t.busy, done := t.done, keyValid := t.keyValid, H := t.H, V := t.V, W := t.W, KBUF := t.KBUF, IDIG := t.IDIG,
      stage := t.stage, srcLen := t.srcLen, nblk := t.nblk, blk := t.blk, phase := t.phase, t := t.t } := by
  obtain ⟨-, -, ha⟩ | hf := sequencerStep_add_or_frame h
  · cases ha <;> rfl
  · rw [hf]

/-- The state `t` an accepted command leaves, by command: with its result, or with the job it starts
(41_engine_commands.md R162 to R165, 42_hmac_composer.md R194, R196). -/
inductive AcceptEnd (s : State) : Instr → State → Prop
  | nop : AcceptEnd s .nop { acceptedAs .nop s with done := true }
  | init : AcceptEnd s .init { acceptedAs .init s with H := IV, done := true }
  | block : AcceptEnd s .block (startInvocation .block 64 (acceptedAs .block s))
  | hash : AcceptEnd s .hash (startInvocation .hash s.msgLen.toNat (acceptedAs .hash s))
  | shortKey (k : Vector Byte 64) (hl : s.keyLen.toNat ≤ 64)
      (hk : gather64 (shortKeyByte (acceptedAs .keyload s)) = some k) :
      AcceptEnd s .keyload { acceptedAs .keyload s with KBUF := k, keyValid := true, done := true }
  | longKey (hl : 64 < s.keyLen.toNat) :
      AcceptEnd s .keyload (startInvocation .keyhash s.keyLen.toNat { acceptedAs .keyload s with keyValid := false })
  | hmac : AcceptEnd s .hmac (startInvocation .inner (64 + s.msgLen.toNat) (acceptedAs .hmac s))

/-- Every command that Check accepts while idle ends so. -/
theorem acceptEnd_of_exec {i : Instr} {s t : State} (hb : s.busy = false) (hc : check i s = none)
    (h : exec i s = .next t) : AcceptEnd s i t := by
  obtain ⟨hb', -⟩ | ⟨-, c, hc', -⟩ | ⟨-, -, hi⟩ := exec_cases h
  · rw [hb] at hb'; cases hb'
  · rw [hc] at hc'; cases hc'
  · obtain ⟨rfl, rfl⟩ | ⟨rfl, rfl⟩ | ⟨rfl, rfl⟩ | ⟨rfl, rfl⟩ | ⟨rfl, hl, k, hk, rfl⟩ | ⟨rfl, hl, rfl⟩ | ⟨rfl, rfl⟩ := hi
    · exact .nop
    · exact .init
    · exact .block
    · exact .hash
    · exact .shortKey k hl hk
    · exact .longKey hl
    · exact .hmac

/-- A word written to CMD is dropped, rejected with a code, or the word of a command that is accepted. -/
theorem hostWriteCmd_outcomes {c : Word} {s t : State} (h : hostWriteCmd c s = .next t) :
    (s.busy = true ∧ t = { s with overrun := true }) ∨
      (s.busy = false ∧ ∃ e, t = rejectedWith e s) ∨
      (s.busy = false ∧ ∃ i, c = encode i ∧ check i s = none ∧ AcceptEnd s i t) := by
  obtain hd | ⟨hb, -, ht⟩ | ⟨hb, i, hi, h⟩ := hostWriteCmd_cases h
  · exact .inl hd
  · exact .inr (.inl ⟨hb, _, ht⟩)
  · cases hc : check i s with
    | some e => rw [exec_reject hb hc] at h; cases h; exact .inr (.inl ⟨hb, _, rfl⟩)
    | none => exact .inr (.inr ⟨hb, i, eq_encode_of_decode hi, hc, acceptEnd_of_exec hb hc h⟩)

/-- An accepted command keeps what acceptance left, but for BUSY, DONE, KEY_VALID, H, KBUF and the place of the
invocation. -/
theorem AcceptEnd.frame {i : Instr} {s t : State} (h : AcceptEnd s i t) :
    t = { acceptedAs i s with
      busy := t.busy, done := t.done, keyValid := t.keyValid, H := t.H, KBUF := t.KBUF, stage := t.stage,
      srcLen := t.srcLen, nblk := t.nblk, blk := t.blk, phase := t.phase } := by
  cases h <;> rfl

/-- A word written to CMD leaves the parameters and the operand registers. -/
theorem hostWriteCmd_keeps_operands {c : Word} {s t : State} (h : hostWriteCmd c s = .next t) :
    t.params = s.params ∧ t.msgAddr = s.msgAddr ∧ t.msgLen = s.msgLen ∧ t.keyAddr = s.keyAddr ∧ t.keyLen = s.keyLen := by
  obtain ⟨-, rfl⟩ | ⟨-, e, rfl⟩ | ⟨-, i, -, -, ha⟩ := hostWriteCmd_outcomes h
  · exact ⟨rfl, rfl, rfl, rfl, rfl⟩
  · exact ⟨rfl, rfl, rfl, rfl, rfl⟩
  · rw [ha.frame]; exact ⟨rfl, rfl, rfl, rfl, rfl⟩

/-- A word written to CMD leaves OVERRUN equal to the BUSY before it (10_state.md R26). -/
theorem hostWriteCmd_overrun {c : Word} {s t : State} (h : hostWriteCmd c s = .next t) : t.overrun = s.busy := by
  obtain ⟨hb, rfl⟩ | ⟨hb, e, rfl⟩ | ⟨hb, i, -, -, ha⟩ := hostWriteCmd_outcomes h
  · exact hb.symm
  · exact hb.symm
  · rw [ha.frame]; exact hb.symm

/-- A word written to CMD while a job runs is dropped (10_state.md R26, 41_engine_commands.md R150). -/
theorem hostWriteCmd_busy {c : Word} {s t : State} (h : hostWriteCmd c s = .next t) (hb : s.busy = true) :
    t = { s with overrun := true } := by
  obtain ⟨-, ht⟩ | ⟨hi, -⟩ | ⟨hi, -⟩ := hostWriteCmd_cases h
  · exact ht
  · rw [hb] at hi; cases hi
  · rw [hb] at hi; cases hi

/-! ### Which operations write H, the key and BUSY -/

/-- Of the commands, only INIT, HASH, a long KEYLOAD and HMAC write H (10_state.md R36). -/
theorem hostWriteCmd_changes_H {c : Word} {s t : State} (h : hostWriteCmd c s = .next t) (hH : t.H ≠ s.H) :
    s.busy = false ∧
      (c = encode .init ∨ c = encode .hash ∨ (c = encode .keyload ∧ 64 < s.keyLen.toNat) ∨ c = encode .hmac) := by
  obtain ⟨-, rfl⟩ | ⟨-, e, rfl⟩ | ⟨hb, i, rfl, -, ha⟩ := hostWriteCmd_outcomes h
  · exact absurd rfl hH
  · exact absurd rfl hH
  · refine ⟨hb, ?_⟩
    cases ha with
    | nop => exact absurd rfl hH
    | init => exact .inl rfl
    | block => exact absurd rfl hH
    | hash => exact .inr (.inl rfl)
    | shortKey k hl hk => exact absurd rfl hH
    | longKey hl => exact .inr (.inr (.inl ⟨rfl, hl⟩))
    | hmac => exact .inr (.inr (.inr rfl))

/-- Of the commands, only KEYLOAD writes KBUF and KEY_VALID (10_state.md R39, R25). -/
theorem hostWriteCmd_changes_key {c : Word} {s t : State} (h : hostWriteCmd c s = .next t)
    (hk : t.KBUF ≠ s.KBUF ∨ t.keyValid ≠ s.keyValid) : s.busy = false ∧ c = encode .keyload := by
  have hno : ¬ (t.KBUF = s.KBUF ∧ t.keyValid = s.keyValid) := fun ⟨h1, h2⟩ => hk.elim (· h1) (· h2)
  obtain ⟨-, rfl⟩ | ⟨-, e, rfl⟩ | ⟨hb, i, rfl, -, ha⟩ := hostWriteCmd_outcomes h
  · exact absurd ⟨rfl, rfl⟩ hno
  · exact absurd ⟨rfl, rfl⟩ hno
  · refine ⟨hb, ?_⟩
    cases ha with
    | shortKey k hl hk => rfl
    | longKey hl => rfl
    | nop | init | block | hash | hmac => exact absurd ⟨rfl, rfl⟩ hno

/-- A word written to CMD that raises BUSY starts a job of BLOCK, HASH, a long KEYLOAD or HMAC (10_state.md R23). -/
theorem hostWriteCmd_raises_busy {c : Word} {s t : State} (h : hostWriteCmd c s = .next t) (hs : s.busy = false)
    (ht : t.busy = true) :
    t.err = 0#4 ∧ t.phase = .load ∧ t.blk = 0 ∧
      (c = encode .block ∨ c = encode .hash ∨ (c = encode .keyload ∧ 64 < s.keyLen.toNat) ∨ c = encode .hmac) := by
  have hne : t.busy ≠ s.busy := by rw [hs, ht]; decide
  obtain ⟨-, rfl⟩ | ⟨-, e, rfl⟩ | ⟨-, i, rfl, -, ha⟩ := hostWriteCmd_outcomes h
  · exact absurd rfl hne
  · exact absurd rfl hne
  · cases ha with
    | block => exact ⟨rfl, rfl, rfl, .inl rfl⟩
    | hash => exact ⟨rfl, rfl, rfl, .inr (.inl rfl)⟩
    | longKey hl => exact ⟨rfl, rfl, rfl, .inr (.inr (.inl ⟨rfl, hl⟩))⟩
    | hmac => exact ⟨rfl, rfl, rfl, .inr (.inr (.inr rfl))⟩
    | nop | init | shortKey k hl hk => exact absurd rfl hne

/-- Of the sequencer's steps, only ADD writes H (10_state.md R36). -/
theorem sequencerStep_changes_H {s t : State} (h : sequencerStep s = .next t) (hH : t.H ≠ s.H) :
    s.busy = true ∧ s.phase = .add := by
  obtain ⟨hb, hp, -⟩ | hf := sequencerStep_add_or_frame h
  · exact ⟨hb, hp⟩
  · exact absurd (congrArg State.H hf) hH

/-- Of the sequencer's steps, only the ADD that ends KEYHASH writes KBUF and KEY_VALID (42_hmac_composer.md R195). -/
theorem sequencerStep_changes_key {s t : State} (h : sequencerStep s = .next t)
    (hk : t.KBUF ≠ s.KBUF ∨ t.keyValid ≠ s.keyValid) :
    s.busy = true ∧ s.stage = .keyhash ∧ s.phase = .add ∧ t.busy = false ∧ t.keyValid = true := by
  have hno : ¬ (t.KBUF = s.KBUF ∧ t.keyValid = s.keyValid) := fun ⟨h1, h2⟩ => hk.elim (· h1) (· h2)
  obtain ⟨hb, hp, ha⟩ | hf := sequencerStep_add_or_frame h
  · cases ha with
    | keyDone hle hst => exact ⟨hb, hst, hp, rfl, rfl⟩
    | nextBlock | done | outer => exact absurd ⟨rfl, rfl⟩ hno
  · rw [hf] at hno; exact absurd ⟨rfl, rfl⟩ hno

/-- The sequencer's step that clears BUSY is the ADD of the last block of a stage other than INNER (10_state.md R23). -/
theorem sequencerStep_clears_busy {s t : State} (h : sequencerStep s = .next t) (hs : s.busy = true)
    (ht : t.busy = false) : s.phase = .add ∧ s.nblk ≤ s.blk + 1 ∧ s.stage ≠ .inner := by
  have hne : t.busy ≠ s.busy := by rw [hs, ht]; decide
  obtain ⟨-, hp, ha⟩ | hf := sequencerStep_add_or_frame h
  · refine ⟨hp, ?_⟩
    cases ha with
    | nextBlock => exact absurd rfl hne
    | done hle hst => exact ⟨hle, by obtain hst | hst | hst := hst <;> simp [hst]⟩
    | keyDone hle hst => exact ⟨hle, by simp [hst]⟩
    | outer => cases ht
  · exact absurd (congrArg State.busy hf) hne

/-! ### The words of the register window and the accesses to them -/

/-- STATUS as a number: its fields at their places (10_state.md R22). -/
theorem statusWord_toNat (s : State) :
    (statusWord s).toNat =
      16 * s.err.toNat + 8 * s.overrun.toNat + 4 * s.keyValid.toNat + 2 * s.done.toNat + s.busy.toNat := by
  unfold statusWord
  generalize s.err = e, s.overrun = o, s.keyValid = k, s.done = d, s.busy = b
  revert e o k d b
  decide

/-- Bits 3:0 of STATUS are the flags (10_state.md R22). -/
theorem statusWord_flags (s : State) :
    (statusWord s).getLsbD 0 = s.busy ∧ (statusWord s).getLsbD 1 = s.done ∧ (statusWord s).getLsbD 2 = s.keyValid ∧
      (statusWord s).getLsbD 3 = s.overrun := by
  simp [statusWord]

/-- Bits 7:4 of STATUS are ERR, bits 31:8 are 0 (10_state.md R22). -/
theorem statusWord_err (s : State) :
    (statusWord s).extractLsb' 4 4 = s.err ∧ (statusWord s).extractLsb' 8 24 = 0#24 := by
  have ho := s.overrun.toNat_le
  have hk := s.keyValid.toNat_le
  have hd := s.done.toNat_le
  have hb := s.busy.toNat_le
  have he := s.err.isLt
  constructor <;> apply BitVec.eq_of_toNat_eq <;>
    simp only [BitVec.extractLsb'_toNat, statusWord_toNat, Nat.shiftRight_eq_div_pow, BitVec.toNat_ofNat] <;> omega

/-- An exact register read shows the word of its offset (20_memory.md R68), a DIGEST only while idle (10_state.md R35). -/
theorem step_regRead {s : State} {rest : List Input} {off : Nat} {w : Word} (hf : s.fault = none)
    (hi : s.inputs = .host (.regRead 32 off) :: rest) (hw : registerWord s off = some w)
    (hd : (s.busy && isDigestOffset off) = false) :
    step s = .next { s with inputs := rest, readData := some (.word w) } := by
  have hw' : registerWord { s with inputs := rest } off = some w := hw
  rw [step_host hf hi, hostStep, hostRegRead, hw']
  simp [hd, returnRead]

/-- A DIGEST read while a job runs is a draw (10_state.md R35). -/
theorem step_regRead_draw {s : State} {rest : List Input} {off : Nat} {w : Word} (hf : s.fault = none)
    (hi : s.inputs = .host (.regRead 32 off) :: rest) (hw : registerWord s off = some w)
    (hd : (s.busy && isDigestOffset off) = true) :
    step s = .next { s with inputs := rest, readData := some (.word (freeWord s.draws)), draws := s.draws + 1 } := by
  have hw' : registerWord { s with inputs := rest } off = some w := hw
  rw [step_host hf hi, hostStep, hostRegRead, hw']
  simp [hd, returnDraw]

/-- An exact register write of another register than CMD is that register's write (20_memory.md R68). -/
theorem step_regWrite {s t : State} {rest : List Input} {off : Nat} {v : Word} (hf : s.fault = none)
    (hi : s.inputs = .host (.regWrite 32 off v) :: rest) (h0 : off ≠ 0x00)
    (hw : writeRegister off v { s with inputs := rest } = some t) : step s = .next t := by
  rw [step_host hf hi, hostStep, hostRegWrite, hw]
  simp [h0]

/-- DIGESTn is H[n] (10_state.md R20, R35). -/
theorem registerWord_digest (s : State) {n : Nat} (h : n < 8) : registerWord s (0x20 + 4 * n) = some s.H[n] := by
  interval_cases n <;> rfl

/-- DIGESTn takes no write (10_state.md R32, R35). -/
theorem writeRegister_digest (s : State) (v : Word) {n : Nat} (h : n < 8) : writeRegister (0x20 + 4 * n) v s = some s := by
  interval_cases n <;> rfl

/-- The eight digest words are shown from offset 0x20 on. -/
theorem isDigestOffset_digest (n : Nat) : isDigestOffset (0x20 + 4 * n) = true := by simp [isDigestOffset]

/-- The digest's bytes, word by word (00_scope.md R11, 40_digest_datapath.md R124). -/
theorem bytesBE_eq_append (H : Vector Word 8) : bytesBE H =
    bytesBE32 H[0] ++ bytesBE32 H[1] ++ bytesBE32 H[2] ++ bytesBE32 H[3] ++ bytesBE32 H[4] ++ bytesBE32 H[5]
      ++ bytesBE32 H[6] ++ bytesBE32 H[7] := by
  have hl : H.toList = [H[0], H[1], H[2], H[3], H[4], H[5], H[6], H[7]] := by
    apply List.ext_getElem
    · simp
    · intro i h1 h2
      have hi : i < 8 := by simpa using h1
      interval_cases i <;> simp
  simp only [bytesBE, hl, List.flatMap_cons, List.flatMap_nil, List.append_nil, List.append_assoc]

/-! ### The statements about the register window -/

/-- Settles O37: the flags and ERR by bit, the whole by `statusWord_toNat`, the read and the write by the rules of the
register window. -/
theorem statusShowsItsFields : Obligations.StatusShowsItsFields := by
  refine ⟨fun s => ?_, fun s rest hf hi => ?_, fun s rest v hf hi => ?_, fun p => by simp [statusWord, State.powerOn]⟩
  · obtain ⟨hb, hd, hk, ho⟩ := statusWord_flags s
    obtain ⟨he, hz⟩ := statusWord_err s
    exact ⟨hb, hd, hk, ho, he, hz, statusWord_toNat s⟩
  · exact step_regRead hf hi rfl (Bool.and_false _)
  · exact step_regWrite hf hi (by decide) rfl

/-- Settles O38: LMODE by the three modes, and the parameters by the frame of each kind of step. -/
theorem infoAndMemLastAreConstants : Obligations.InfoAndMemLastAreConstants := by
  refine ⟨fun s rest hf hi => ?_, fun s rest hf hi => ?_, fun s rest v hf hi => ?_, fun s t h => ?_⟩
  · refine ⟨infoWord s.params, step_regRead hf hi rfl (Bool.and_false _), ?_⟩
    unfold infoWord
    cases s.params.lengthMode <;> decide
  · exact ⟨s.params.memLast, rfl, step_regRead hf hi rfl (Bool.and_false _)⟩
  · obtain hi | hi := hi <;> exact step_regWrite hf hi (by decide) rfl
  · cases stepKind_of_step h with
    | turn hn h => rw [sequencerStep_frame h]
    | reset hn h => rw [h]; rfl
    | command c hn h => exact (hostWriteCmd_keeps_operands h).1
    | access a hn hr hc h => rw [hostStep_frame hr hc h]

/-- Settles O39: DIGESTn is `H[n]`, shown while idle and drawn while busy. -/
theorem digestShowsTheHashStateWhileIdle : Obligations.DigestShowsTheHashStateWhileIdle := by
  refine ⟨fun s rest n h hf hi => ⟨fun hb => ?_, fun hb => ?_⟩, fun s rest n v h hf hi => ?_, bytesBE_eq_append⟩
  · exact step_regRead hf hi (registerWord_digest s h) (by rw [hb, Bool.false_and])
  · exact step_regRead_draw hf hi (registerWord_digest s h) (by rw [hb, isDigestOffset_digest, Bool.and_self])
  · exact step_regWrite hf hi (by omega) (writeRegister_digest _ v h)

/-- Settles O40: the rules of the register window, and each kind of step's frame. -/
theorem operandRegistersHoldTheLastWrite : Obligations.OperandRegistersHoldTheLastWrite := by
  refine ⟨fun s rest v hf => ?_, fun s rest hf => ?_, fun s t h hnr => ?_⟩
  · refine ⟨fun hi => ?_, fun hi => ?_, fun hi => ?_, fun hi => ?_⟩ <;> exact step_regWrite hf hi (by decide) rfl
  · refine ⟨fun hi => ?_, fun hi => ?_, fun hi => ?_, fun hi => ?_⟩ <;>
      exact step_regRead hf hi rfl (Bool.and_false _)
  · cases stepKind_of_step h with
    | turn hn h => rw [sequencerStep_frame h]; simp
    | reset hn h => exact absurd hn hnr
    | command c hn h =>
      obtain ⟨-, hma, hml, hka, hkl⟩ := hostWriteCmd_keeps_operands h
      exact ⟨fun _ => hma, fun _ => hml, fun _ => hka, fun _ => hkl⟩
    | access a hn hr hc h =>
      simpa only [hn, ne_eq, Input.host.injEq] using hostStep_keeps_operands hr hc h

/-- Settles O41: offset 0x00 shows the zero word. -/
theorem cmdReadsAsZero : Obligations.CmdReadsAsZero :=
  fun _ _ hf hi => step_regRead hf hi rfl (Bool.and_false _)

/-! ### The statements about the writers of the key, H, OVERRUN, ERR and BUSY -/

/-- Settles O52: the writers of the key among the commands and the sequencer's steps; the invariant places KEYHASH in a
KEYLOAD. -/
theorem onlyKeyloadAndResetChangeTheKey : Obligations.OnlyKeyloadAndResetChangeTheKey := by
  intro s t hinv h hk
  cases stepKind_of_step h with
  | turn hn h =>
    obtain ⟨hb, hst, hp, htb, htk⟩ := sequencerStep_changes_key h hk
    have hfits := (hinv.job hb).fits
    simp only at hst
    rw [stageFits, hst] at hfits
    exact .inr (.inr ⟨hn, hb, hfits.1, hst, hp, htb, htk⟩)
  | reset hn h => exact .inl hn
  | command c hn h =>
    obtain ⟨hb, rfl⟩ := hostWriteCmd_changes_key h hk
    exact .inr (.inl ⟨hn, hb⟩)
  | access a hn hr hc h =>
    rw [hostStep_frame hr hc h] at hk
    simp at hk

/-- Settles O53: the writers of H among the commands and the sequencer's steps. -/
theorem hashStateHasFewWriters : Obligations.HashStateHasFewWriters := by
  intro s t h hH
  cases stepKind_of_step h with
  | turn hn h =>
    have hadd := sequencerStep_changes_H h hH
    exact .inr (.inr ⟨hn, hadd⟩)
  | reset hn h => exact .inl hn
  | command c hn h =>
    obtain ⟨hb, hc⟩ := hostWriteCmd_changes_H h hH
    refine .inr (.inl ⟨hb, ?_⟩)
    obtain rfl | rfl | ⟨rfl, hl⟩ | rfl := hc
    · exact .inl hn
    · exact .inr (.inl hn)
    · exact .inr (.inr (.inl ⟨hn, hl⟩))
    · exact .inr (.inr (.inr hn))
  | access a hn hr hc h => exact absurd (congrArg State.H (hostStep_frame hr hc h)) hH

/-- Settles O54: a CMD write copies BUSY into OVERRUN, and every other step but reset leaves it. -/
theorem overrunRecordsDroppedCommands : Obligations.OverrunRecordsDroppedCommands := by
  intro s t h
  cases stepKind_of_step h with
  | turn hn h => rw [sequencerStep_frame h, hn]; simp [isCmdWrite]
  | reset hn h => rw [h, hn]; simp [isCmdWrite]
  | command c hn h =>
    have hc : isCmdWrite (nextInput s) = true := by rw [hn]; rfl
    have hnr : nextInput s ≠ .host .reset := by simp [hn]
    refine ⟨fun _ => ?_, fun _ hb => ?_, fun hr => absurd hr hnr, fun hc' => absurd (hc.symm.trans hc') (by decide)⟩
    · rw [hostWriteCmd_overrun h]
    · rw [hostWriteCmd_busy h hb]
  | access a hn hr hc h =>
    rw [hostStep_frame hr hc h, hn]
    simp [hc, hr]

/-- Settles O55: a dropped CMD write leaves ERR, as does every other step but reset. -/
theorem onlyTakenCommandsChangeTheErrorCode : Obligations.OnlyTakenCommandsChangeTheErrorCode := by
  intro s t h
  cases stepKind_of_step h with
  | turn hn h => rw [sequencerStep_frame h, hn]; simp
  | reset hn h => rw [h, hn]; simp
  | command c hn h =>
    rw [hn]
    refine ⟨nofun, fun _ hb => ?_⟩
    have hb : s.busy = true := hb.resolve_left (by simp [isCmdWrite])
    rw [hostWriteCmd_busy h hb]
  | access a hn hr hc h => rw [hostStep_frame hr hc h, hn]; simp [hr]

/-- Settles O57: the command words that start a job, and the ADD that ends one; the invariant bounds the block index. -/
theorem busyRisesAndFallsWithAJob : Obligations.BusyRisesAndFallsWithAJob := by
  intro s t hinv h
  cases stepKind_of_step h with
  | turn hn h =>
    refine ⟨fun hs ht => ?_, fun hs ht => ?_⟩
    · rw [sequencerStep_idle (s := { s with inputs := s.inputs.tail }) hs] at h
      cases h; rw [hs] at ht; cases ht
    · obtain ⟨hp, hle, hst⟩ := sequencerStep_clears_busy h hs ht
      have hlt := (hinv.job hs).blkBelow
      exact .inr ⟨hn, hp, by simp only at hle; omega, hst⟩
  | reset hn h =>
    refine ⟨fun _ ht => ?_, fun _ _ => .inl hn⟩
    rw [h] at ht; cases ht
  | command c hn h =>
    refine ⟨fun hs ht => ?_, fun hs ht => ?_⟩
    · have hjob := hostWriteCmd_raises_busy h hs ht
      exact ⟨c, hn, hjob⟩
    · rw [hostWriteCmd_busy h hs, hs] at ht; cases ht
  | access a hn hr hc h =>
    have hb : t.busy = s.busy := by rw [hostStep_frame hr hc h]
    refine ⟨fun hs ht => ?_, fun hs ht => ?_⟩ <;>
    · rw [hb, hs] at ht; cases ht

end Sys2Proof.Machine

/-! MEM (20_memory.md): accesses to it and to the register window, the job's side and the host's side of the state, the
invariant, and what the sequencer reads; then the statements about them. -/

namespace Sys2Proof.Machine

open Sys2Proof.Config

/-! ### The job's side and the host's side of the state -/

/-- The state `s` with the host's side of `h`: the operand registers, OVERRUN, MEM, the schedule and the model's read
port, which a running job does not write (41_engine_commands.md R152). `sameJob_iff` ties it to `SameJob`. -/
def State.withHostSide (s h : State) : State :=
  { s with
    msgAddr := h.msgAddr, msgLen := h.msgLen, keyAddr := h.keyAddr, keyLen := h.keyLen, overrun := h.overrun,
    mem := h.mem, inputs := h.inputs, readData := h.readData, draws := h.draws }

/-- Two states hold the same job exactly when they differ in the host's side only, and not in the active bytes. -/
theorem sameJob_iff {s s' : State} :
    SameJob s s' ↔ s' = s.withHostSide s' ∧ ∀ a, inActiveRange s a = true → s'.mem.read a = s.mem.read a := by
  constructor
  · intro h
    refine ⟨?_, h.bytes⟩
    obtain ⟨hstage, hsrc, hnblk, hblk, hphase, ht⟩ := h.position
    obtain ⟨hma, hml, hka, hkl⟩ := h.latched
    rw [State.withHostSide, ← h.params, ← h.busy, ← h.done, ← h.keyValid, ← h.err, ← h.hash, ← h.working, ← h.schedule,
      ← h.key, ← h.inner, ← h.op, ← hstage, ← hsrc, ← hnblk, ← hblk, ← hphase, ← ht, ← hma, ← hml, ← hka, ← hkl, ← h.fault]
  · rintro ⟨h, hbytes⟩
    have hpart {α : Type} (f : State → α) : f s' = f (s.withHostSide s') := congrArg f h
    exact ⟨hpart State.params, hpart State.busy, hpart State.done, hpart State.keyValid, hpart State.err, hpart State.H,
      hpart State.V, hpart State.W, hpart State.KBUF, hpart State.IDIG, hpart State.op,
      ⟨hpart State.stage, hpart State.srcLen, hpart State.nblk, hpart State.blk, hpart State.phase, hpart State.t⟩,
      ⟨hpart State.lMsgAddr, hpart State.lMsgLen, hpart State.lKeyAddr, hpart State.lKeyLen⟩, hpart State.fault, hbytes⟩

/-- A host access other than reset and a CMD write stays on the host's side. -/
theorem hostStep_hostSide {a : HostAccess} {s t : State} (hr : a ≠ .reset) (hc : isCmdWrite (.host a) = false)
    (h : hostStep a s = .next t) : t = s.withHostSide t := by
  rw [hostStep_frame hr hc h]; rfl

/-! ### What writes MEM -/

/-- Of the host accesses other than a CMD write, only a MEM write below MEM_BYTES changes MEM (20_memory.md R62, R65). -/
theorem hostStep_mem {a : HostAccess} {s t : State} (hr : a ≠ .reset) (hc : isCmdWrite (.host a) = false)
    (h : hostStep a s = .next t) :
    t.mem = s.mem ∨ ∃ addr v, a = .memWrite addr v ∧ addr < s.memBytes ∧ t.mem = s.mem.write addr v := by
  cases a with
  | regRead width off => obtain ⟨-, w, -, ⟨-, rfl⟩ | ⟨-, rfl⟩⟩ := hostRegRead_cases h <;> exact .inl rfl
  | regWrite width off v =>
    obtain ⟨rfl, ⟨rfl, -⟩ | ⟨-, h⟩⟩ := hostRegWrite_cases h
    · cases hc
    · obtain ⟨-, rfl⟩ | ⟨-, rfl⟩ | ⟨-, rfl⟩ | ⟨-, rfl⟩ | ⟨-, -, -, -, -, rfl⟩ := writeRegister_cases h <;>
        exact .inl rfl
  | memRead addr => obtain ⟨b, -, -, rfl⟩ := hostMemRead_cases h; exact .inl rfl
  | memWrite addr v => obtain ⟨hlt, -, rfl⟩ := hostMemWrite_cases h; exact .inr ⟨addr, v, rfl, hlt, rfl⟩
  | reset => exact absurd rfl hr

/-- No command writes MEM (20_memory.md R65). -/
theorem hostWriteCmd_mem {c : Word} {s t : State} (h : hostWriteCmd c s = .next t) : t.mem = s.mem := by
  obtain ⟨-, rfl⟩ | ⟨-, e, rfl⟩ | ⟨-, i, -, -, ha⟩ := hostWriteCmd_outcomes h
  · rfl
  · rfl
  · rw [ha.frame]; rfl

/-! ### The invariant through a step -/

/-- A running job's invariant is about the job's side only. -/
theorem JobInv.withHostSide {s : State} (hj : JobInv s) (h : State) : JobInv (s.withHostSide h) :=
  ⟨hj.noError, hj.notDone, hj.blkBelow, hj.schedIndex, hj.rangeInside, hj.fits⟩

/-- The invariant stays with another host's side, if its MEM is canonical and inside its size. -/
theorem Inv.withHostSide {s h : State} (hi : Inv s) (hwf : h.mem.wf) (hin : ∀ c ∈ h.mem, c.1 < s.memBytes) :
    Inv (s.withHostSide h) :=
  ⟨hwf, hin, hi.errNamed, hi.doneNoError, fun hb => (hi.job hb).withHostSide h⟩

/-- Taking an entry off the schedule keeps the invariant. -/
theorem Inv.withInputs {s : State} (hi : Inv s) (l : List Input) : Inv { s with inputs := l } :=
  hi.withHostSide (h := { s with inputs := l }) hi.memCanonical hi.memInside

/-- A host access other than reset and a CMD write keeps the invariant. -/
theorem Inv.hostStep {a : HostAccess} {s t : State} (hi : Inv s) (hr : a ≠ .reset) (hc : isCmdWrite (.host a) = false)
    (h : hostStep a s = .next t) : Inv t := by
  rw [hostStep_hostSide hr hc h]
  obtain hm | ⟨addr, v, -, hlt, hm⟩ := hostStep_mem hr hc h
  · exact hi.withHostSide (hm ▸ hi.memCanonical) (hm ▸ hi.memInside)
  · exact hi.withHostSide (hm ▸ Memory.wf_write addr v hi.memCanonical) (hm ▸ Memory.inside_write v hlt hi.memInside)

/-- Reset keeps MEM and ends the job (70_reset_and_hazards.md R250). -/
theorem Inv.hostReset {s : State} (hi : Inv s) : Inv (hostReset s) :=
  ⟨hi.memCanonical, hi.memInside, Nat.zero_le 4, nofun, nofun⟩

/-- Every named error code is at most 0x4 (60_exceptions.md R221). -/
theorem ErrCode.code_toNat_le (c : ErrCode) : c.code.toNat ≤ 4 := by cases c <;> decide

/-- A taken command word leaves a named error code (60_exceptions.md R221). -/
theorem hostWriteCmd_err_named {c : Word} {s t : State} (hb : s.busy = false) (h : hostWriteCmd c s = .next t) :
    t.err.toNat ≤ 4 := by
  obtain ⟨hb', -⟩ | ⟨-, -, rfl⟩ | ⟨-, i, -, h⟩ := hostWriteCmd_cases h
  · rw [hb] at hb'; cases hb'
  · exact ErrCode.illegalCmd.code_toNat_le
  · cases hc : check i s with
    | some e => rw [exec_reject hb hc] at h; cases h; exact e.code_toNat_le
    | none => rw [(acceptEnd_of_exec hb hc h).frame]; exact Nat.zero_le 4

/-- HMAC is accepted only with a key loaded (60_exceptions.md R224). -/
theorem keyValid_of_check_hmac {s : State} (h : check .hmac s = none) : s.keyValid = true := by
  obtain ⟨hk, -, -⟩ := check_eq_none_iff.1 h
  simpa [keyMissing] using hk

/-- A range check that passed holds for the range that acceptance latches (60_exceptions.md R225). -/
theorem activeRange_acceptedAs_le {i : Instr} {s : State} (h : rangeFails i s = false) :
    (activeRange (acceptedAs i s)).2 ≤ s.memBytes := by
  cases i with
  | nop | init => exact Nat.zero_le _
  | block | hash | keyload | hmac => exact range_inside h rfl

/-- The job an accepted command starts is well placed. -/
theorem AcceptEnd.jobInv {i : Instr} {s t : State} (hb : s.busy = false) (hc : check i s = none) (h : AcceptEnd s i t)
    (ht : t.busy = true) : JobInv t := by
  have hne : t.busy ≠ s.busy := by rw [hb, ht]; decide
  obtain ⟨-, hrange, -⟩ := check_eq_none_iff.1 hc
  have hin := activeRange_acceptedAs_le hrange
  cases h with
  | nop | init | shortKey => exact absurd rfl hne
  | block => exact ⟨rfl, rfl, Nat.one_pos, nofun, hin, rfl, rfl, rfl⟩
  | hash => exact ⟨rfl, rfl, numBlocks_pos _, nofun, hin, rfl, rfl, rfl⟩
  | longKey hl => exact ⟨rfl, rfl, numBlocks_pos _, nofun, hin, rfl, rfl, rfl, hl, rfl⟩
  | hmac => exact ⟨rfl, rfl, numBlocks_pos _, nofun, hin, rfl, rfl, rfl, keyValid_of_check_hmac hc⟩

/-- A word written to CMD keeps the invariant. -/
theorem Inv.hostWriteCmd {c : Word} {s t : State} (hi : Inv s) (h : hostWriteCmd c s = .next t) : Inv t := by
  obtain ⟨-, rfl⟩ | ⟨hb, e, rfl⟩ | ⟨hb, i, -, hc, ha⟩ := hostWriteCmd_outcomes h
  · exact hi.withHostSide (h := { s with overrun := true }) hi.memCanonical hi.memInside
  · exact ⟨hi.memCanonical, hi.memInside, hostWriteCmd_err_named hb h, nofun, fun hb' => absurd (hb.symm.trans hb') nofun⟩
  · have herr : t.err = 0#4 := by rw [ha.frame]; rfl
    have hbytes : t.memBytes = s.memBytes := by rw [ha.frame]; rfl
    have hmem := hostWriteCmd_mem h
    exact ⟨hmem ▸ hi.memCanonical, hmem ▸ hbytes ▸ hi.memInside, by rw [herr]; exact Nat.zero_le 4, fun _ => herr,
      ha.jobInv hb hc⟩

/-- SCHED is entered with t = 16 and only counts up (41_engine_commands.md R154, R155). -/
theorem sequencerStep_schedIndex {s t : State} (hs : s.phase = .sched → 16 ≤ s.t.val) (h : sequencerStep s = .next t)
    (hp : t.phase = .sched) : 16 ≤ t.t.val := by
  obtain ⟨-, rfl⟩ | ⟨-, ⟨-, B, -, rfl⟩ | ⟨hps, rfl⟩ | ⟨hps, rfl⟩ | ⟨hps, rfl⟩⟩ := sequencerStep_cases h
  · exact hs hp
  · exact Nat.le_refl 16
  · have h16 := hs hps
    by_cases h63 : s.t.val = 63
    · rw [stepSched_of_eq h63] at hp; cases hp
    · rw [stepSched_of_ne h63]
      simp only [Fin.val_add, Fin.val_one]
      omega
  · by_cases h63 : s.t.val = 63
    · rw [stepRound_of_eq h63] at hp; cases hp
    · rw [stepRound_of_ne h63] at hp; cases hps.symm.trans hp
  · generalize stepAdd s = t, addEnd_stepAdd s = ha at hp
    cases ha with
    | nextBlock | outer => cases hp
    | done | keyDone => exact hs hp

/-- The sequencer keeps a job that goes on well placed. -/
theorem JobInv.sequencerStep {s t : State} (hj : JobInv s) (h : sequencerStep s = .next t) (ht : t.busy = true) :
    JobInv t := by
  have hsched := sequencerStep_schedIndex hj.schedIndex h
  obtain ⟨-, -, ha⟩ | hf := sequencerStep_add_or_frame h
  · cases ha with
    | nextBlock hlt => exact ⟨hj.noError, hj.notDone, hlt, hsched, hj.rangeInside, hj.fits⟩
    | done | keyDone => cases ht
    | outer hle hst =>
      have hfits := hj.fits
      rw [stageFits, hst] at hfits
      obtain ⟨hop, -, -, hkey⟩ := hfits
      exact ⟨hj.noError, hj.notDone, numBlocks_pos 96, hsched, hj.rangeInside, hop, rfl, rfl, hkey⟩
  · rw [hf] at hsched ⊢
    exact ⟨hj.noError, hj.notDone, hj.blkBelow, hsched, hj.rangeInside, hj.fits⟩

/-- The sequencer's turn keeps the invariant. -/
theorem Inv.sequencerStep {s t : State} (hi : Inv s) (h : sequencerStep s = .next t) : Inv t := by
  cases hb : s.busy with
  | false => rw [sequencerStep_idle hb] at h; cases h; exact hi
  | true =>
    have hj := hi.job hb
    have herr : t.err = 0#4 := by rw [sequencerStep_frame h]; exact hj.noError
    have hmem : t.mem = s.mem := by rw [sequencerStep_frame h]
    have hbytes : t.memBytes = s.memBytes := by rw [sequencerStep_frame h]; rfl
    exact ⟨hmem ▸ hi.memCanonical, hmem ▸ hbytes ▸ hi.memInside, by rw [herr]; exact Nat.zero_le 4, fun _ => herr,
      hj.sequencerStep h⟩

/-- Settles O50: each kind of step keeps the invariant. -/
theorem everyStepKeepsTheInvariant : Obligations.EveryStepKeepsTheInvariant := by
  intro s t hinv h
  have hi := hinv.withInputs s.inputs.tail
  cases stepKind_of_step h with
  | turn hn h => exact hi.sequencerStep h
  | reset hn h => rw [h]; exact hi.hostReset
  | command c hn h => exact hi.hostWriteCmd h
  | access a hn hr hc h => exact hi.hostStep hr hc h

/-! ### What the sequencer reads -/

/-- Whether an address lies in the active range, as bounds. -/
theorem inActiveRange_iff {s : State} {a : Nat} :
    inActiveRange s a = true ↔ (activeRange s).1 ≤ a ∧ a < (activeRange s).2 := by
  simp [inActiveRange]

/-- The active range holds every offset below its length. -/
theorem inActiveRange_offset {s : State} {lo len k : Nat} (hr : activeRange s = (lo, lo + len)) (hk : k < len) :
    inActiveRange s (lo + k) = true := by
  rw [inActiveRange_iff, hr]
  exact ⟨Nat.le_add_right lo k, Nat.add_lt_add_left hk lo⟩

/-- The padded buffer takes from its source only the bytes below its length (40_digest_datapath.md R121). -/
theorem padByte_congr {mode : LengthMode} {L j : Nat} {f g : Nat → Option Byte} (h : ∀ k < L, f k = g k) :
    padByte mode L j f = padByte mode L j g := by
  unfold padByte
  split
  · exact h j ‹_›
  · rfl

/-- The stream of a BLOCK job is its source (41_engine_commands.md R159). -/
theorem streamByte_of_block {s : State} (hst : s.stage = .block) (j : Nat) : streamByte s j = sourceByte s s.stage j := by
  simp only [streamByte, hst]

/-- The stream of every other stage is its source, padded (41_engine_commands.md R159). -/
theorem streamByte_of_ne_block {s : State} (hst : s.stage ≠ .block) (j : Nat) :
    streamByte s j = padByte s.params.lengthMode s.srcLen j (sourceByte s s.stage) := by
  unfold streamByte
  split
  · exact absurd ‹_› hst
  all_goals simp only [*]

section
variable {s h : State} (hbytes : ∀ a, inActiveRange s a = true → h.mem.read a = s.mem.read a)
include hbytes

/-- A running job's source reads MEM in the active range only (20_memory.md R62, R64). -/
theorem sourceByte_withHostSide (hfits : stageFits s) {k : Nat} (hk : k < s.srcLen) :
    sourceByte (s.withHostSide h) s.stage k = sourceByte s s.stage k := by
  unfold stageFits at hfits
  cases hst : s.stage with
  | block | hash | keyhash =>
    rw [hst] at hfits
    obtain ⟨hop, hlen, -⟩ := hfits
    exact hbytes _ (inActiveRange_offset (by rw [activeRange, hop]; rfl) (hlen ▸ hk))
  | inner =>
    rw [hst] at hfits
    obtain ⟨hop, hlen, -⟩ := hfits
    by_cases h64 : k < 64
    · simp only [sourceByte, h64, dif_pos]; rfl
    · simp only [sourceByte, h64, dif_neg, not_false_eq_true]
      exact hbytes _ (inActiveRange_offset (len := s.lMsgLen) (by rw [activeRange, hop]; rfl) (by omega))
  | outer => rfl

/-- A byte of the current block reads MEM in the active range only. -/
theorem streamByte_withHostSide (hj : JobInv s) {i : Nat} (hi : i < 64) :
    streamByte (s.withHostSide h) (64 * s.blk + i) = streamByte s (64 * s.blk + i) := by
  by_cases hst : s.stage = .block
  · have hfits := hj.fits
    rw [stageFits, hst] at hfits
    obtain ⟨-, hlen, hnblk⟩ := hfits
    have hblk := hj.blkBelow
    rw [streamByte_of_block hst, streamByte_of_block (s := s.withHostSide h) hst]
    exact sourceByte_withHostSide hbytes hj.fits (by omega)
  · rw [streamByte_of_ne_block hst, streamByte_of_ne_block (s := s.withHostSide h) hst]
    exact padByte_congr fun k hk => sourceByte_withHostSide hbytes hj.fits hk

/-- LOAD reads MEM in the active range only (20_memory.md R77). -/
theorem currentBlock_withHostSide (hj : JobInv s) : currentBlock (s.withHostSide h) = currentBlock s :=
  gather64_congr fun _ hi => streamByte_withHostSide hbytes hj hi

end

/-! ### The sequencer leaves the host's side alone -/

/-- SCHED reads and writes the job's side only. -/
theorem stepSched_withHostSide (s h : State) : stepSched (s.withHostSide h) = (stepSched s).withHostSide h := by
  by_cases h63 : s.t.val = 63
  · rw [stepSched_of_eq h63, stepSched_of_eq (s := s.withHostSide h) h63]; rfl
  · rw [stepSched_of_ne h63, stepSched_of_ne (s := s.withHostSide h) h63]; rfl

/-- ROUND reads and writes the job's side only. -/
theorem stepRound_withHostSide (s h : State) : stepRound (s.withHostSide h) = (stepRound s).withHostSide h := by
  by_cases h63 : s.t.val = 63
  · rw [stepRound_of_eq h63, stepRound_of_eq (s := s.withHostSide h) h63]; rfl
  · rw [stepRound_of_ne h63, stepRound_of_ne (s := s.withHostSide h) h63]; rfl

/-- A stage end reads and writes the job's side only. -/
theorem stageEnd_withHostSide (Hn : Vector Word 8) (s h : State) :
    stageEnd Hn (s.withHostSide h) = (stageEnd Hn s).withHostSide h := by
  have hst : (s.withHostSide h).stage = s.stage := rfl
  unfold stageEnd
  rw [hst]
  cases s.stage <;> rfl

/-- ADD reads and writes the job's side only. -/
theorem stepAdd_withHostSide (s h : State) : stepAdd (s.withHostSide h) = (stepAdd s).withHostSide h := by
  unfold stepAdd
  by_cases hlt : s.blk + 1 < s.nblk
  · have hlt' : (s.withHostSide h).blk + 1 < (s.withHostSide h).nblk := hlt
    rw [if_pos hlt, if_pos hlt']; rfl
  · have hlt' : ¬ (s.withHostSide h).blk + 1 < (s.withHostSide h).nblk := hlt
    rw [if_neg hlt, if_neg hlt']
    exact stageEnd_withHostSide _ { s with H := addBack s.H s.V } h

/-- With the same block to load, another host's side does not change what the sequencer's turn does to the job. -/
theorem sequencerStep_withHostSide {s h t : State} (hB : currentBlock (s.withHostSide h) = currentBlock s)
    (hs : sequencerStep s = .next t) : sequencerStep (s.withHostSide h) = .next (t.withHostSide h) := by
  obtain ⟨hb, rfl⟩ | ⟨hb, hs⟩ := sequencerStep_cases hs
  · exact sequencerStep_idle hb
  · rw [sequencerStep_busy (s := s.withHostSide h) hb, show (s.withHostSide h).phase = s.phase from rfl]
    obtain ⟨hp, B, hBs, rfl⟩ | ⟨hp, rfl⟩ | ⟨hp, rfl⟩ | ⟨hp, rfl⟩ := hs <;> simp only [hp]
    · rw [stepLoad_of_some (hB.trans hBs)]; rfl
    · rw [stepSched_withHostSide]
    · rw [stepRound_withHostSide]
    · rw [stepAdd_withHostSide]

/-- The sequencer faults exactly at a LOAD with an unwritten byte (20_memory.md R64). -/
theorem sequencerStep_eq_fault_iff {s : State} {k : Fault} :
    sequencerStep s = .fault k ↔ s.busy = true ∧ s.phase = .load ∧ currentBlock s = none ∧ k = .unwrittenRead := by
  constructor
  · intro h
    cases hb : s.busy with
    | false => rw [sequencerStep_idle hb] at h; cases h
    | true =>
      rw [sequencerStep_busy hb] at h
      split at h
      · obtain ⟨hk, hB⟩ := stepLoad_fault h
        exact ⟨rfl, ‹_›, hB, hk⟩
      all_goals cases h
  · rintro ⟨hb, hp, hB, rfl⟩
    simp only [sequencerStep_busy hb, hp, stepLoad_of_none hB]

/-- Settles O59: LOAD reads the active bytes only, and the other steps the job's side only. -/
theorem sequencerStepDependsOnlyOnTheJob : Obligations.SequencerStepDependsOnlyOnTheJob := by
  intro s s' hinv _ hb hsame
  obtain ⟨heq, hbytes⟩ := sameJob_iff.1 hsame
  have hB := currentBlock_withHostSide hbytes (hinv.job hb)
  refine ⟨fun t ht => ⟨t.withHostSide s', ?_, sameJob_iff.2 ⟨rfl, fun a ha => ?_⟩⟩, fun k hk => ?_⟩
  · exact (congrArg sequencerStep heq).trans (sequencerStep_withHostSide hB ht)
  · rw [sequencerStep_frame ht] at ha ⊢
    exact hbytes a ha
  · obtain ⟨-, hp, hnone, rfl⟩ := sequencerStep_eq_fault_iff.1 hk
    refine (congrArg sequencerStep heq).trans ?_
    exact sequencerStep_eq_fault_iff.2 ⟨hb, hp, hB.trans hnone, rfl⟩

/-! ### Accesses that fault, and what a MEM access does -/

/-- The registers are mapped at the multiples of 4 up to 0x3C (10_state.md R20). -/
theorem registerWord_eq_none_iff {s : State} {off : Nat} : registerWord s off = none ↔ off % 4 ≠ 0 ∨ 0x3C < off := by
  constructor
  · intro h
    by_contra hc
    have hlt : off < 0x40 := by omega
    have hoff : off = 4 * (off / 4) := by omega
    have hq : off / 4 < 16 := by omega
    rw [hoff] at h
    interval_cases off / 4 <;> cases h
  · intro h
    unfold registerWord
    split
    case h_17 => rfl
    all_goals omega

/-- A register read faults exactly outside the window (20_memory.md R68). -/
theorem hostRegRead_eq_fault_iff {width off : Nat} {s : State} :
    hostRegRead width off s = .fault .hostAccess ↔ width ≠ 32 ∨ registerWord s off = none := by
  unfold hostRegRead
  by_cases hw : width = 32
  · cases hr : registerWord s off with
    | none => simp [hw]
    | some w => by_cases hd : (s.busy && isDigestOffset off) = true <;> simp [hw, hd]
  · simp [hw]

/-- A short KEYLOAD faults only at an unwritten key byte (42_hmac_composer.md R194). -/
theorem loadShortKey_fault {s : State} {k : Fault} (h : loadShortKey s = .fault k) :
    k = .unwrittenRead ∧ gather64 (shortKeyByte s) = none := by
  cases hg : gather64 (shortKeyByte s) with
  | none => rw [loadShortKey_of_none hg] at h; cases h; exact ⟨rfl, rfl⟩
  | some key => rw [loadShortKey_of_some hg] at h; cases h

/-- The only command that faults is a short KEYLOAD of an unwritten byte, accepted while idle (20_memory.md R64). -/
theorem exec_fault {i : Instr} {s : State} {k : Fault} (h : exec i s = .fault k) :
    k = .unwrittenRead ∧ i = .keyload ∧ s.busy = false ∧ check .keyload s = none ∧ s.keyLen.toNat ≤ 64 ∧
      gather64 (shortKeyByte (acceptedAs .keyload s)) = none := by
  cases hb : s.busy with
  | true => rw [exec_busy hb] at h; cases h
  | false =>
    cases hc : check i s with
    | some e => rw [exec_reject hb hc] at h; cases h
    | none =>
      cases i with
      | nop => rw [exec, execNop, command_accept hb hc] at h; cases h
      | init => rw [exec, execInit, command_accept hb hc] at h; cases h
      | block => rw [exec, execBlock, command_accept hb hc] at h; cases h
      | hash => rw [exec, execHash, command_accept hb hc] at h; cases h
      | hmac => rw [exec, execHmac, command_accept hb hc] at h; cases h
      | keyload =>
        rw [exec, execKeyload, command_accept hb hc] at h
        by_cases hl : s.keyLen.toNat ≤ 64
        · obtain ⟨hk, hg⟩ := loadShortKey_fault ((if_pos hl).symm.trans h)
          exact ⟨hk, rfl, rfl, hc, hl, hg⟩
        · cases (if_neg hl).symm.trans h

/-- No word written to CMD is a fault of the access (20_memory.md R68). -/
theorem hostWriteCmd_ne_hostAccess (c : Word) (s : State) : hostWriteCmd c s ≠ .fault .hostAccess := by
  intro h
  unfold hostWriteCmd at h
  split at h
  · cases (exec_fault h).1
  · cases hb : s.busy with
    | false => rw [illegalCommand_idle hb] at h; cases h
    | true => rw [illegalCommand_busy hb] at h; cases h

/-- A register takes a write exactly where one is mapped (20_memory.md R68). -/
theorem writeRegister_eq_none_iff {off : Nat} {v : Word} {s : State} :
    writeRegister off v s = none ↔ registerWord s off = none := by
  unfold writeRegister
  split
  case h_5 => exact Option.map_eq_none_iff
  all_goals exact ⟨nofun, nofun⟩

/-- A register write faults exactly outside the window (20_memory.md R68). -/
theorem hostRegWrite_eq_fault_iff {width off : Nat} {v : Word} {s : State} :
    hostRegWrite width off v s = .fault .hostAccess ↔ width ≠ 32 ∨ registerWord s off = none := by
  unfold hostRegWrite
  by_cases hw : width = 32
  · by_cases h0 : off = 0
    · simp [hw, h0, hostWriteCmd_ne_hostAccess, registerWord]
    · cases hr : writeRegister off v s with
      | none => simp [hw, h0, writeRegister_eq_none_iff.1 hr]
      | some t => simp [hw, h0, ← writeRegister_eq_none_iff (v := v), hr]
  · simp [hw]

/-- A MEM write inside MEM and, while busy, outside the active range stores its byte (20_memory.md R62). -/
theorem step_memWrite {s : State} {rest : List Input} {a : Nat} {v : Byte} (hf : s.fault = none)
    (hi : s.inputs = .host (.memWrite a v) :: rest) (ha : a < s.memBytes)
    (hfree : (s.busy && inActiveRange s a) = false) :
    step s = .next { s with inputs := rest, mem := s.mem.write a v } := by
  have hfree' : ¬ (s.busy && inActiveRange { s with inputs := rest } a) = true := by rw [Bool.not_eq_true]; exact hfree
  rw [step_host hf hi]
  exact (if_neg (Nat.not_le_of_lt ha)).trans (if_neg hfree')

/-- A MEM write above MEM faults (20_memory.md R62). -/
theorem step_memWrite_above {s : State} {rest : List Input} {a : Nat} {v : Byte} (hf : s.fault = none)
    (hi : s.inputs = .host (.memWrite a v) :: rest) (ha : s.memBytes ≤ a) : step s = .fault .hostAccess := by
  rw [step_host hf hi]
  exact if_pos ha

/-- A MEM write into the bytes of the running job faults (20_memory.md R62). -/
theorem step_memWrite_active {s : State} {rest : List Input} {a : Nat} {v : Byte} (hf : s.fault = none)
    (hi : s.inputs = .host (.memWrite a v) :: rest) (ha : a < s.memBytes) (hb : s.busy = true)
    (hact : inActiveRange s a = true) : step s = .fault .memWriteWhileBusy := by
  have hact' : (s.busy && inActiveRange { s with inputs := rest } a) = true := by rw [hb, Bool.true_and]; exact hact
  rw [step_host hf hi]
  exact (if_neg (Nat.not_le_of_lt ha)).trans (if_pos hact')

/-- The result of a step that stored `v` at `a`: that cell holds `v`, every other reads as before. -/
theorem exists_stored {s : State} {rest : List Input} {a : Nat} {v : Byte}
    (h : step s = .next { s with inputs := rest, mem := s.mem.write a v }) :
    ∃ m : Memory, step s = .next { s with inputs := rest, mem := m } ∧ m.read a = some v ∧
      ∀ b, b ≠ a → m.read b = s.mem.read b :=
  ⟨s.mem.write a v, h, Memory.read_write_same _ a v, fun _ hb => Memory.read_write_other _ v hb.symm⟩

/-! ### The statements about MEM -/

/-- Settles O42: both accesses fault exactly at another width or where no register is mapped. -/
theorem malformedRegisterAccessFaults : Obligations.MalformedRegisterAccessFaults := by
  intro s rest width off hf
  refine ⟨fun hi => ?_, fun v hi => ?_⟩
  · rw [step_host hf hi, hostStep, hostRegRead_eq_fault_iff, registerWord_eq_none_iff]
  · rw [step_host hf hi, hostStep, hostRegWrite_eq_fault_iff, registerWord_eq_none_iff]

/-- Settles O43: the three outcomes of a MEM write; the bounds given by op are those of the active range. -/
theorem hostMemoryWriteStoresOneByte : Obligations.HostMemoryWriteStoresOneByte := by
  intro s rest a v hf hi
  refine ⟨step_memWrite_above hf hi, fun lo hi' hblock hmsg hkey hnop hinit ha => ?_, fun ha hb => ?_⟩
  · have hrange : activeRange s = (lo, hi') := by
      unfold activeRange
      cases hop : s.op with
      | nop => exact absurd hop hnop
      | init => exact absurd hop hinit
      | block => obtain ⟨rfl, rfl⟩ := hblock hop; rfl
      | hash => obtain ⟨rfl, rfl⟩ := hmsg (.inl hop); rfl
      | keyload => obtain ⟨rfl, rfl⟩ := hkey hop; rfl
      | hmac => obtain ⟨rfl, rfl⟩ := hmsg (.inr hop); rfl
    have hact : inActiveRange s a = true ↔ lo ≤ a ∧ a < hi' := by rw [inActiveRange_iff, hrange]
    refine ⟨fun hb hlo hhi => step_memWrite_active hf hi ha hb (hact.2 ⟨hlo, hhi⟩), fun hfree => ?_⟩
    refine exists_stored (step_memWrite hf hi ha ?_)
    rw [Bool.and_eq_false_iff, ← Bool.not_eq_true (inActiveRange s a), hact]
    exact hfree.imp_right fun hout => by omega
  · exact exists_stored (step_memWrite hf hi ha (by rw [hb, Bool.false_and]))

/-- Settles O44: the three outcomes of a MEM read, none of which asks for BUSY. -/
theorem hostMemoryReadReturnsTheByte : Obligations.HostMemoryReadReturnsTheByte := by
  intro s rest a hf hi
  rw [step_host hf hi]
  refine ⟨fun ha => if_pos ha, fun ha hr => ?_, fun v ha hr => ?_⟩
  · refine (if_neg (Nat.not_le_of_lt ha)).trans ?_
    simp only [hr]
  · refine (if_neg (Nat.not_le_of_lt ha)).trans ?_
    simp only [hr]
    rfl

/-- Settles O45: only a host MEM write changes MEM, at its own address. -/
theorem onlyHostWritesChangeMemory : Obligations.OnlyHostWritesChangeMemory := by
  intro s t h b
  cases stepKind_of_step h with
  | turn hn h => rw [sequencerStep_frame h]; exact .inl rfl
  | reset hn h => rw [h]; exact .inl rfl
  | command c hn h => rw [hostWriteCmd_mem h]; exact .inl rfl
  | access a hn hr hc h =>
    obtain hm | ⟨addr, v, rfl, -, hm⟩ := hostStep_mem hr hc h
    · rw [hm]; exact .inl rfl
    · rw [hm]
      by_cases hb : addr = b
      · subst hb; exact .inr ⟨v, hn, Memory.read_write_same _ addr v⟩
      · exact .inl (Memory.read_write_other _ v hb)

/-! ### The end of a job -/

/-- KBUF after KEYHASH: the 32 digest bytes, then 32 zeros (42_hmac_composer.md R195). -/
theorem toList_keyOfDigest (Hn : Vector Word 8) :
    (keyOfDigest Hn).toList = bytesBE Hn ++ List.replicate 32 0x00#8 := by
  apply List.ext_getElem
  · simp
  · intro i h1 h2
    by_cases hi : i < 32
    · simp [keyOfDigest, hi]
    · rw [List.getElem_append_right (by rw [length_bytesBE]; omega), List.getElem_replicate]
      simp [keyOfDigest, hi]

/-- Settles O56: the ends of ADD that clear BUSY. -/
theorem jobResultsAreWrittenWhenBusyFalls : Obligations.JobResultsAreWrittenWhenBusyFalls := by
  intro s t hinv h hs ht hnr
  cases stepKind_of_step h with
  | turn hn h =>
    have herr : t.err = 0#4 := by rw [sequencerStep_frame h]; exact (hinv.job hs).noError
    obtain ⟨-, hp, ha⟩ | hf := sequencerStep_add_or_frame h
    · have hidle := sequencerStep_idle ht
      cases ha with
      | nextBlock => cases hs.symm.trans ht
      | outer => cases ht
      | done hle hst =>
        refine ⟨hn, hp, rfl, herr, fun i hi => getElem_addBack _ _ i hi, fun hk => ?_, fun _ => ⟨rfl, rfl⟩, hidle⟩
        obtain hst | hst | hst := hst <;> cases hst.symm.trans hk
      | keyDone hle hst =>
        exact ⟨hn, hp, rfl, herr, fun i hi => getElem_addBack _ _ i hi, fun _ => ⟨toList_keyOfDigest _, rfl⟩,
          fun hk => absurd hst hk, hidle⟩
    · cases hs.symm.trans ((congrArg State.busy hf).symm.trans ht)
  | reset hn h => exact absurd hn hnr
  | command c hn h => rw [hostWriteCmd_busy h hs] at ht; cases hs.symm.trans ht
  | access a hn hr hc h => rw [hostStep_frame hr hc h] at ht; cases hs.symm.trans ht

end Sys2Proof.Machine

/-! Command words (30_encoding.md): the decoder against the encoder and the opcode map, the words that are none, and what
taking one leaves; then the statements about them. -/

namespace Sys2Proof.Machine

/-! ### Which words decode -/

/-- The decoder reads a command from the word of that command (30_encoding.md R82). -/
theorem decode_encode (i : Instr) : decode (encode i) = some i := by
  have hstatement : Laws.Encoding.Statement i := by
    cases i with
    | nop => exact Laws.Encoding.nop
    | init => exact Laws.Encoding.init
    | block => exact Laws.Encoding.block
    | hash => exact Laws.Encoding.hash
    | keyload => exact Laws.Encoding.keyload
    | hmac => exact Laws.Encoding.hmac
  obtain ⟨-, -, hdecode, -⟩ := hstatement
  exact hdecode

/-- The words of the commands are the only ones that decode (30_encoding.md R84). -/
theorem decode_eq_some_iff {c : Word} {i : Instr} : decode c = some i ↔ c = encode i :=
  ⟨eq_encode_of_decode, fun h => h ▸ decode_encode i⟩

/-- A word with RSV not 0 decodes to none, whatever its OP (30_encoding.md R83). -/
theorem decode_of_rsv_ne {c : Word} (h : rsvField c ≠ 0#28) : decode c = none := by simp [decode, decodeNamed, h]

/-- With RSV = 0 the decoder follows OP (30_encoding.md R84). -/
theorem decode_of_rsv_eq {c : Word} (h : rsvField c = 0#28) : decode c = commandOfOp (opField c) := by
  cases ho : commandOfOp (opField c) <;> simp [decode, decodeNamed, h, ho]

/-- The opcode map as a chain of comparisons (30_encoding.md R82). -/
theorem commandOfOp_eq_ite : ∀ op : BitVec 4, commandOfOp op =
    if op = 0x0#4 then some .nop
    else if op = 0x1#4 then some .init
    else if op = 0x2#4 then some .block
    else if op = 0x3#4 then some .hash
    else if op = 0x4#4 then some .keyload
    else if op = 0x5#4 then some .hmac
    else none := by decide

/-- The OP values from 0x6 on are reserved (30_encoding.md R82). -/
theorem commandOfOp_eq_none_iff : ∀ op : BitVec 4, commandOfOp op = none ↔ 6 ≤ op.toNat := by decide

/-- The words that are no command: RSV is not 0, or OP is reserved (30_encoding.md R83). -/
theorem decode_eq_none_iff {c : Word} : decode c = none ↔ rsvField c ≠ 0#28 ∨ 6 ≤ (opField c).toNat := by
  by_cases hr : rsvField c = 0#28
  · rw [decode_of_rsv_eq hr, commandOfOp_eq_none_iff]
    exact ⟨.inr, fun h => h.resolve_left (not_not.2 hr)⟩
  · exact ⟨fun _ => .inl hr, fun _ => decode_of_rsv_ne hr⟩

/-- The words of the commands are the numbers 0 to 5 (30_encoding.md R80, R82). -/
theorem toNat_lt_six_iff (c : Word) : c.toNat < 6 ↔ rsvField c = 0#28 ∧ (opField c).toNat < 6 := by
  have hc := c.isLt
  have hop : (opField c).toNat = c.toNat % 16 := by simp [opField]
  have hrsv : (rsvField c).toNat = c.toNat / 16 := by
    simp only [rsvField, BitVec.extractLsb'_toNat, Nat.shiftRight_eq_div_pow]; omega
  rw [← BitVec.toNat_inj, hop, hrsv, BitVec.toNat_ofNat]
  omega

/-- Exactly the words below 6 decode to a command (30_encoding.md R84). -/
theorem decode_isSome_iff (c : Word) : (decode c).isSome = true ↔ c.toNat < 6 := by
  rw [Option.isSome_iff_ne_none, ne_eq, decode_eq_none_iff, toNat_lt_six_iff, not_or, not_not, Nat.not_le]

/-! ### Taking a word while idle -/

/-- A host write to CMD runs that word on the state with the entry taken off the schedule (41_engine_commands.md R150). -/
theorem step_cmdWrite {s : State} {c : Word} {rest : List Input} (hf : s.fault = none)
    (hi : s.inputs = .host (.regWrite 32 0x00 c) :: rest) : step s = hostWriteCmd c { s with inputs := rest } :=
  step_host hf hi

/-- A word that decodes to none, taken while idle, is rejected with ILLEGAL_CMD (60_exceptions.md R223). -/
theorem hostWriteCmd_of_decode_none {s : State} {c : Word} (hb : s.busy = false) (hd : decode c = none) :
    hostWriteCmd c s = .next (rejectedWith 0x1#4 s) := by
  rw [hostWriteCmd, hd]
  exact illegalCommand_idle hb

/-- No check of a command fails with ILLEGAL_CMD (60_exceptions.md R227). -/
theorem check_code_ne_illegalCmd {i : Instr} {s : State} {e : ErrCode} (h : check i s = some e) : e.code ≠ 0x1#4 := by
  obtain ⟨rfl, -⟩ | ⟨rfl, -⟩ | ⟨rfl, -⟩ := check_cases h <;> decide

/-- A command taken while idle leaves no ILLEGAL_CMD: its checks have other codes, and acceptance clears ERR. -/
theorem exec_err_ne_illegalCmd {i : Instr} {s t : State} (hb : s.busy = false) (h : exec i s = .next t) :
    t.err ≠ 0x1#4 := by
  cases hc : check i s with
  | some e => rw [exec_reject hb hc] at h; cases h; exact check_code_ne_illegalCmd hc
  | none =>
    have herr : t.err = 0x0#4 := by rw [(acceptEnd_of_exec hb hc h).frame]; rfl
    rw [herr]; decide

/-! ### The statements about command words -/

/-- Settles O2: `decode_encode` one way, `eq_encode_of_decode` the other. -/
theorem decodeIsTheInverseOfEncode : Obligations.DecodeIsTheInverseOfEncode :=
  fun _ _ => decode_eq_some_iff

/-- Settles O1: the decoder by its two fields, the six words as numbers, and the rejection of any other word. -/
theorem decodeFollowsTheOpcodeMap : Obligations.DecodeFollowsTheOpcodeMap := by
  refine ⟨fun c => ?_, decode_isSome_iff, fun s c rest ⟨hf, hb⟩ hi hd => ?_⟩
  · by_cases hr : rsvField c = 0#28
    · rw [decode_of_rsv_eq hr, commandOfOp_eq_ite]
      exact (if_neg (not_not.2 hr)).symm
    · rw [decode_of_rsv_ne hr]
      exact (if_pos hr).symm
  · exact ⟨_, (step_cmdWrite hf hi).trans (hostWriteCmd_of_decode_none hb hd), rfl⟩

/-- Settles O5: the reserved words are those that decode to none, and no command leaves ILLEGAL_CMD. -/
theorem reservedWordsAreRejectedAsIllegal : Obligations.ReservedWordsAreRejectedAsIllegal := by
  intro s c rest ⟨hf, hb⟩ hi
  rw [step_cmdWrite hf hi]
  refine ⟨fun hreserved => hostWriteCmd_of_decode_none hb (decode_eq_none_iff.2 hreserved), fun hnamed t ht => ?_⟩
  obtain ⟨hb', -⟩ | ⟨-, hd, -⟩ | ⟨hidle, i, -, ht⟩ := hostWriteCmd_cases ht
  · cases hb.symm.trans hb'
  · exact absurd (decode_eq_none_iff.1 hd) hnamed
  · exact exec_err_ne_illegalCmd hidle ht

/-- Settles O3: each of the six words is the encoding of its command. -/
theorem opcodeMapWordsDecode : Obligations.OpcodeMapWordsDecode :=
  ⟨decode_encode .nop, decode_encode .init, decode_encode .block, decode_encode .hash, decode_encode .keyload,
    decode_encode .hmac⟩

end Sys2Proof.Machine

/-! The digest datapath (40_digest_datapath.md): the bits of the word functions, the constant tables, the entries of the
schedule, the rounds of a compression, and the bytes of a padded buffer; then the statements about them. -/

namespace Sys2Proof.Machine

open Sys2Proof.Config

/-! ### Bits of the word functions -/

/-- A right rotation by n moves bit k + n, counted modulo 32, to bit k (40_digest_datapath.md R101). -/
theorem getLsbD_rotr (x : Word) {n k : Nat} (hn : n < 32) (hk : k < 32) :
    (rotr x n).getLsbD k = x.getLsbD ((k + n) % 32) := by
  rw [rotr, BitVec.getLsbD_or, BitVec.getLsbD_ushiftRight, BitVec.getLsbD_shiftLeft]
  by_cases hkn : k + n < 32
  · have hleft : k < 32 - n := by omega
    simp [hleft, Nat.mod_eq_of_lt hkn, Nat.add_comm n k]
  · have hright : x.getLsbD (n + k) = false := BitVec.getLsbD_of_ge x _ (by omega)
    have hwrap : (k + n) % 32 = k - (32 - n) := by omega
    have hleft : ¬ k < 32 - n := by omega
    simp [hright, hwrap, hleft, hk]

/-- A logical right shift by n moves bit k + n to bit k, and 0 where there is none (40_digest_datapath.md R102). -/
theorem getLsbD_shr (x : Word) (n k : Nat) : (shr x n).getLsbD k = (decide (k + n < 32) && x.getLsbD (k + n)) := by
  rw [shr, BitVec.getLsbD_ushiftRight, Nat.add_comm n k]
  by_cases hkn : k + n < 32
  · simp [hkn]
  · simp [hkn, BitVec.getLsbD_of_ge x _ (Nat.le_of_not_lt hkn)]

/-- `Ch` takes the bit of f where e has 1, of g where e has 0 (40_digest_datapath.md R107). -/
theorem getLsbD_choose (e f g : Word) (k : Nat) :
    (choose e f g).getLsbD k = if e.getLsbD k then f.getLsbD k else g.getLsbD k := by
  rw [choose, BitVec.getLsbD_xor, BitVec.getLsbD_and, BitVec.getLsbD_and, BitVec.getLsbD_not]
  by_cases hk : k < 32
  · cases e.getLsbD k <;> simp [hk]
  · simp [BitVec.getLsbD_of_ge _ _ (Nat.le_of_not_lt hk)]

/-- `Maj` is 1 where at least two of the three bits are (40_digest_datapath.md R108). -/
theorem getLsbD_majority (a b c : Word) (k : Nat) : (majority a b c).getLsbD k =
    decide (2 ≤ (a.getLsbD k).toNat + (b.getLsbD k).toNat + (c.getLsbD k).toNat) := by
  rw [majority, BitVec.getLsbD_xor, BitVec.getLsbD_xor, BitVec.getLsbD_and, BitVec.getLsbD_and, BitVec.getLsbD_and]
  cases a.getLsbD k <;> cases b.getLsbD k <;> cases c.getLsbD k <;> rfl

/-! ### The constant tables -/

/-- The first 64 primes, from whose roots the tables are taken (40_digest_datapath.md R109, R110). -/
def firstPrimes : Vector Nat 64 :=
  #v[2, 3, 5, 7, 11, 13, 17, 19, 23, 29, 31, 37, 41, 43, 47, 53, 59, 61, 67, 71, 73, 79, 83, 89, 97, 101, 103, 107, 109,
    113, 127, 131, 137, 139, 149, 151, 157, 163, 167, 173, 179, 181, 191, 193, 197, 199, 211, 223, 227, 229, 233, 239,
    241, 251, 257, 263, 269, 271, 277, 281, 283, 293, 307, 311]

/-- Below 18² a number is prime exactly when no smaller number from 2 to 17 divides it. -/
theorem prime_iff_of_lt {n : Nat} (h : n < 18 ^ 2) : n.Prime ↔ 2 ≤ n ∧ ∀ m < 18, 2 ≤ m → m < n → ¬ m ∣ n := by
  refine Nat.prime_def_le_sqrt.trans (and_congr_right fun htwo => ⟨fun hp m _ hm2 hmn hd => ?_, fun hp m hm2 hms => ?_⟩)
  · have hprime : n.Prime := Nat.prime_def_le_sqrt.2 ⟨htwo, hp⟩
    rcases (Nat.dvd_prime hprime).1 hd with rfl | rfl <;> omega
  · exact hp m (hms.trans_lt (Nat.sqrt_lt'.2 h)) hm2 (hms.trans_lt (Nat.sqrt_lt_self htwo))

/-- The numbers up to 311 that no smaller number from 2 to 17 divides are those of the list. -/
theorem mem_firstPrimes_iff_of_lt :
    ∀ n < 312, n ∈ firstPrimes.toList ↔ 2 ≤ n ∧ ∀ m < 18, 2 ≤ m → m < n → ¬ m ∣ n := by decide +kernel

/-- The list is in rising order. -/
theorem firstPrimes_rising : firstPrimes.toList.Pairwise (· < ·) := by decide

/-- The list holds the primes up to 311. -/
theorem mem_firstPrimes_iff (n : Nat) : n ∈ firstPrimes.toList ↔ n.Prime ∧ n ≤ 311 := by
  have hbound : ∀ p ∈ firstPrimes.toList, p ≤ 311 := by decide
  have hmem (hn : n ≤ 311) : n ∈ firstPrimes.toList ↔ n.Prime :=
    (mem_firstPrimes_iff_of_lt n (Nat.lt_succ_of_le hn)).trans (prime_iff_of_lt (by omega)).symm
  exact ⟨fun h => ⟨(hmem (hbound n h)).1 h, hbound n h⟩, fun ⟨hp, hn⟩ => (hmem hn).2 hp⟩

/-- Each word of IV, under some whole part, is 2^32 times the square root of its prime, rounded down. -/
theorem IV_roots : ∀ i : Fin 8, ∃ a : Fin 5, (a.val * 2 ^ 32 + IV[i].toNat) ^ 2 ≤ firstPrimes[i.val] * 2 ^ 64 ∧
    firstPrimes[i.val] * 2 ^ 64 < (a.val * 2 ^ 32 + IV[i].toNat + 1) ^ 2 := by decide +kernel

/-- Each word of K, under some whole part, is 2^32 times the cube root of its prime, rounded down. -/
theorem K_roots : ∀ i : Fin 64, ∃ a : Fin 7, (a.val * 2 ^ 32 + K[i].toNat) ^ 3 ≤ firstPrimes[i] * 2 ^ 96 ∧
    firstPrimes[i] * 2 ^ 96 < (a.val * 2 ^ 32 + K[i].toNat + 1) ^ 3 := by decide +kernel

/-! ### The schedule and the rounds -/

/-- The expansion's entry t reads only the entries below t. -/
theorem schedWord_congr {W W' : Vector Word 64} {t : Fin 64} (ht : 16 ≤ t.val)
    (h : ∀ i (hi : i < t.val), W[i] = W'[i]) : schedWord W t = schedWord W' t := by
  rw [schedWord, schedWord, h _ (by omega), h _ (by omega), h _ (by omega), h _ (by omega)]

/-- Step n of the expansion writes entry 16 + n (40_digest_datapath.md R113). -/
theorem getElem_expand_succ (W : Vector Word 64) (n : Nat) (h : 16 + n < 64) :
    (expand W (n + 1))[16 + n] = schedWord (expand W n) ⟨16 + n, h⟩ := by
  have hindex : Fin.ofNat 64 (16 + n) = ⟨16 + n, h⟩ := Fin.ext (ofNat_val h)
  rw [expand, hindex]
  exact getElem_schedStep_same (expand W n) ⟨16 + n, h⟩

/-- Each entry of the whole expansion from 16 on is the sum of four earlier ones (40_digest_datapath.md R113). -/
theorem getElem_expand_entry (W : Vector Word 64) (t : Nat) (h : t < 64) (ht : 16 ≤ t) :
    (expand W 48)[t] = schedWord (expand W 48) ⟨t, h⟩ := by
  obtain ⟨n, rfl⟩ := Nat.exists_eq_add_of_le ht
  obtain ⟨k, hk⟩ : ∃ k, 48 = n + 1 + k := ⟨47 - n, by omega⟩
  rw [hk, getElem_expand_stable W (n + 1) k (16 + n) (by omega) (by omega), getElem_expand_succ W n h]
  refine schedWord_congr ht fun i hi => ?_
  rw [Nat.add_assoc]
  exact (getElem_expand_stable W n (1 + k) i (by omega) hi).symm

/-- Any sequence of register tuples that takes each round in turn is the model's (40_digest_datapath.md R118). -/
theorem rounds_eq_of_roundSteps {W : Vector Word 64} {v : Nat → Vector Word 8}
    (hstep : ∀ (t : Nat) (h : t < 64), v (t + 1) = roundStep ⟨t, h⟩ (v t) W[t]) :
    ∀ n ≤ 64, rounds W (v 0) n = v n := by
  intro n hn
  induction n with
  | zero => rfl
  | succ n ih =>
    have hindex : Fin.ofNat 64 n = ⟨n, hn⟩ := Fin.ext (ofNat_val hn)
    simp only [rounds, ih (Nat.le_of_succ_le hn), hindex, hstep n hn]
    rfl

/-! ### The bytes of a padded buffer -/

section

variable (mode : LengthMode) (m : List Byte) {j : Nat}

/-- The zero bytes fill the room up to the length field (40_digest_datapath.md R119). -/
theorem length_add_zeroCount (L : Nat) : L + (zeroCount L + 1) = paddedLen L - 8 := by
  have := paddedLen_ge L
  rw [zeroCount]
  omega

/-- The padded buffer begins with the message. -/
theorem getElem?_pad_message (h : j < m.length) : (pad mode m)[j]? = m[j]? := by
  rw [pad, List.append_assoc, List.append_assoc, List.getElem?_append_left h]

/-- The marker follows the message. -/
theorem getElem?_pad_marker : (pad mode m)[m.length]? = some 0x80#8 := by
  rw [pad, List.append_assoc, List.append_assoc, List.getElem?_append_right (Nat.le_refl _), Nat.sub_self]
  rfl

/-- Zero bytes stand between the marker and the length field. -/
theorem getElem?_pad_zero (h : m.length < j) (h' : j < paddedLen m.length - 8) : (pad mode m)[j]? = some 0x00#8 := by
  have hz := length_add_zeroCount m.length
  rw [pad, List.getElem?_append_left (by simp; omega), List.getElem?_append_right (by simp; omega),
    List.getElem?_replicate_of_lt (by simp; omega)]

/-- The padded buffer ends with the length field. -/
theorem getElem?_pad_lenField (h : paddedLen m.length - 8 ≤ j) :
    (pad mode m)[j]? = (lenField mode m.length)[j - (paddedLen m.length - 8)]? := by
  have hlength : (m ++ [0x80#8] ++ List.replicate (zeroCount m.length) 0x00#8).length = paddedLen m.length - 8 := by
    simpa using length_add_zeroCount m.length
  rw [pad, List.getElem?_append_right (by rw [hlength]; exact h), hlength]

/-- `PadByte` answers byte j of the padded buffer when its source holds the message (40_digest_datapath.md R121). -/
theorem padByte_eq_getElem?_pad {src : Nat → Option Byte} (hsrc : ∀ k (h : k < m.length), src k = some m[k]) (j : Nat) :
    padByte mode m.length j src = (pad mode m)[j]? := by
  unfold padByte
  split_ifs with hmessage hmarker hzero
  · rw [getElem?_pad_message mode m hmessage, hsrc j hmessage, List.getElem?_eq_getElem hmessage]
  · rw [hmarker, getElem?_pad_marker]
  · rw [getElem?_pad_zero mode m (by omega) hzero]
  · rw [getElem?_pad_lenField mode m (by omega)]

end

/-! ### The length field -/

/-- One byte more of a big-endian number. -/
def appendByteBE (n : Nat) (b : Byte) : Nat := 256 * n + b.toNat

/-- A word's four bytes, read big-endian after those of n (00_scope.md R11). -/
theorem foldl_bytesBE32 (n : Nat) (w : Word) : (bytesBE32 w).foldl appendByteBE n = 2 ^ 32 * n + w.toNat := by
  have := w.isLt
  simp only [bytesBE32, List.foldl_cons, List.foldl_nil, appendByteBE, BitVec.extractLsb'_toNat,
    Nat.shiftRight_eq_div_pow]
  omega

/-- The eight bytes of a number below 2^64 read big-endian are that number (00_scope.md R11). -/
theorem foldl_bytesBE64 {n : Nat} (h : n < 2 ^ 64) : (bytesBE64 n).foldl appendByteBE 0 = n := by
  rw [bytesBE64, List.foldl_append, foldl_bytesBE32, foldl_bytesBE32]
  simp only [BitVec.extractLsb'_toNat, Nat.shiftRight_eq_div_pow, BitVec.toNat_ofNat]
  omega

/-- In TRUNC32 the length field reads as the low 32 bits of the bit length (40_digest_datapath.md R120). -/
theorem foldl_lenField_trunc32 (L : Nat) : (lenField .trunc32 L).foldl appendByteBE 0 = 8 * L % 2 ^ 32 := by
  rw [lenField, List.foldl_append, foldl_bytesBE32, BitVec.toNat_ofNat]
  simp [List.replicate, appendByteBE]

/-- The eight bytes of a number below 2^32 are four zeros and the bytes of its word. -/
theorem bytesBE64_of_lt {n : Nat} (h : n < 2 ^ 32) :
    bytesBE64 n = List.replicate 4 0#8 ++ bytesBE32 (BitVec.ofNat 32 n) := by
  have hhigh : (BitVec.ofNat 64 n).extractLsb' 32 32 = 0#32 := by
    apply BitVec.eq_of_toNat_eq
    simp only [BitVec.extractLsb'_toNat, Nat.shiftRight_eq_div_pow, BitVec.toNat_ofNat]
    omega
  have hlow : (BitVec.ofNat 64 n).extractLsb' 0 32 = BitVec.ofNat 32 n := by
    apply BitVec.eq_of_toNat_eq
    simp only [BitVec.extractLsb'_toNat, Nat.shiftRight_eq_div_pow, BitVec.toNat_ofNat]
    omega
  rw [bytesBE64, hhigh, hlow]
  rfl

/-- Below 2^32 bits every mode gives the field of TRUNC32 (40_digest_datapath.md R120). -/
theorem lenField_eq_trunc32 {L : Nat} (h : 8 * L < 2 ^ 32) (mode : LengthMode) :
    lenField mode L = lenField .trunc32 L := by
  cases mode with
  | full64 => exact bytesBE64_of_lt h
  | trunc32 => rfl
  | reject => exact bytesBE64_of_lt h

/-- The length check fails in mode REJECT from 2^32 bits on (60_exceptions.md R226). -/
theorem lengthFails_of_reject {i : Instr} {s : State} {L : Nat} (ho : paddedOperand i s = some L)
    (hm : s.params.lengthMode = .reject) (hL : 2 ^ 32 ≤ 8 * L) : lengthFails i s = true := by
  rw [lengthFails, hm, ho]
  exact decide_eq_true hL

/-- A check that fails answers a code other than NONE (60_exceptions.md R227). -/
theorem check_code_ne_none {i : Instr} {s : State} {c : ErrCode} (h : check i s = some c) : c.code ≠ 0x0#4 := by
  obtain ⟨rfl, -⟩ | ⟨rfl, -⟩ | ⟨rfl, -⟩ := check_cases h <;> decide

/-- HASH of a message inside MEM that is too long is rejected with LENGTH: no earlier check fails. -/
theorem check_hash_length {s : State} (hrange : s.msgAddr.toNat + s.msgLen.toNat ≤ s.memBytes)
    (hl : lengthFails .hash s = true) : check .hash s = some .length := by
  have hr : rangeFails .hash s = false := rangeFails_eq_false rfl hrange
  have hk : keyMissing .hash s = false := rfl
  simp [check, hk, hr, hl]

/-! ### The statements about the digest datapath -/

/-- Settles O24: the bits of rotations and shifts, through the exclusive ors. -/
theorem sigmasXorTheirRotatedBits : Obligations.SigmasXorTheirRotatedBits := by
  intro x k hk
  refine ⟨?_, ?_, ?_, ?_⟩
  · simp [smallSigma0, getLsbD_rotr x _ hk, getLsbD_shr]
  · simp [smallSigma1, getLsbD_rotr x _ hk, getLsbD_shr]
  · simp [bigSigma0, getLsbD_rotr x _ hk]
  · simp [bigSigma1, getLsbD_rotr x _ hk]

/-- Settles O27: the entries below 16 are the decoded words, which the expansion leaves; the others are its sums. -/
theorem scheduleDecodesThenExpands : Obligations.ScheduleDecodesThenExpands := by
  refine fun B => ⟨fun i h => ?_, fun i h ht => getElem_expand_entry _ i h ht⟩
  rw [schedule, getElem_expand_outside _ 48 i (Nat.le_refl _) (by omega) (.inl h), getElem_loadWords_lt _ _ _ h]
  rfl

/-- Settles O28: the sequence is that of the model's rounds, and the add-back goes lane by lane. -/
theorem compressIsSixtyFourRoundsAndTheAddBack : Obligations.CompressIsSixtyFourRoundsAndTheAddBack := by
  rintro _ B v rfl hstep i h
  rw [compress, getElem_addBack, rounds_eq_of_roundSteps hstep 64 (Nat.le_refl _)]

/-- Settles O30: the four parts of the padded buffer, and `PadByte` case by case. -/
theorem padByteIsTheByteOfThePaddedBuffer : Obligations.PadByteIsTheByteOfThePaddedBuffer := by
  refine fun mode m src hsrc => ⟨length_pad mode m, paddedLen_ge _, fun j h => ?_⟩
  have hj : (pad mode m)[j]? = some (pad mode m)[j] := List.getElem?_eq_getElem h
  refine ⟨?_, fun hmessage => ?_, ?_, fun hgt hlt => ?_, fun hfield => ?_⟩
  · rw [padByte_eq_getElem?_pad mode m hsrc, hj]
  · rw [getElem?_pad_message mode m hmessage, List.getElem?_eq_getElem hmessage] at hj
    exact (Option.some.inj hj).symm
  · rintro rfl
    exact Option.some.inj (hj.symm.trans (getElem?_pad_marker mode m))
  · exact Option.some.inj (hj.symm.trans (getElem?_pad_zero mode m hgt hlt))
  · rw [← getElem?_pad_lenField mode m hfield, hj]

/-- Settles O31: the field as a number in each mode, and the length check of mode REJECT. -/
theorem lengthFieldHoldsTheBitLength : Obligations.LengthFieldHoldsTheBitLength := by
  refine ⟨length_lenField, fun L h => ⟨foldl_bytesBE64 h, foldl_bytesBE64 h, foldl_lenField_trunc32 L⟩,
    fun L mode mode' h => ?_, fun i s L hb ho hm hL => ?_, fun s hb hrange hm hL => ?_⟩
  · rw [lenField_eq_trunc32 h mode, lenField_eq_trunc32 h mode']
  · have hl : lengthFails i s = true := lengthFails_of_reject ho hm hL
    cases hc : check i s with
    | none =>
      obtain ⟨-, -, hpass⟩ := check_eq_none_iff.1 hc
      cases hl.symm.trans hpass
    | some c => exact ⟨_, exec_reject hb hc, hb, check_code_ne_none hc⟩
  · exact exec_reject hb (check_hash_length hrange (lengthFails_of_reject rfl hm hL))

/-- Settles O25: both functions bit by bit. -/
theorem chooseSelectsAndMajorityVotes : Obligations.ChooseSelectsAndMajorityVotes :=
  fun x y z k => ⟨getLsbD_choose x y z k, getLsbD_majority x y z k⟩

/-- Settles O26: the list of primes, and each table word under the whole part of its root, which is gone modulo 2^32. -/
theorem constantTablesAreTheRootsOfPrimes : Obligations.ConstantTablesAreTheRootsOfPrimes := by
  refine ⟨firstPrimes, mem_firstPrimes_iff, firstPrimes_rising, fun i h => ?_, fun i h => ?_⟩
  · obtain ⟨a, hle, hlt⟩ := IV_roots ⟨i, h⟩
    exact ⟨_, hle, hlt, (Nat.mul_add_mod_of_lt (BitVec.isLt _)).symm⟩
  · obtain ⟨a, hle, hlt⟩ := K_roots ⟨i, h⟩
    exact ⟨_, hle, hlt, (Nat.mul_add_mod_of_lt (BitVec.isLt _)).symm⟩

/-- Settles O29: 64 * ((L + 8) / 64 + 1) is the least multiple of 64 above L + 8. -/
theorem paddedLengthIsTheSmallestMultiple : Obligations.PaddedLengthIsTheSmallestMultiple := by
  intro L
  have hge : L + 9 ≤ paddedLen L := paddedLen_ge L
  have hle : paddedLen L ≤ L + 8 + 64 := by unfold paddedLen numBlocks; omega
  have hblocks : paddedLen L = 64 * numBlocks L := rfl
  refine ⟨by omega, hge, by omega, fun n hn hL => by omega, by omega⟩

end Sys2Proof.Machine

/-! The engine's commands and the sequencer (41_engine_commands.md): what each command does when it is accepted, what each
internal step writes, and the blocks of an invocation run to its stage end; then the statements about them. -/

namespace Sys2Proof.Machine

open Sys2Proof.Config

/-! ### Commands accepted while idle -/

/-- A command with no buffer to pad has no bit length to check (60_exceptions.md R226). -/
theorem lengthFails_of_none {op : Instr} {s : State} (ho : paddedOperand op s = none) : lengthFails op s = false := by
  unfold lengthFails
  rw [ho]
  cases s.params.lengthMode <;> rfl

/-- NOP has nothing to check (60_exceptions.md R227). -/
theorem check_nop (s : State) : check .nop s = none := check_eq_none_iff.2 ⟨rfl, rfl, lengthFails_of_none rfl⟩

/-- INIT has nothing to check (60_exceptions.md R227). -/
theorem check_init (s : State) : check .init s = none := check_eq_none_iff.2 ⟨rfl, rfl, lengthFails_of_none rfl⟩

/-- BLOCK passes its checks when its 64 bytes lie in MEM (60_exceptions.md R225). -/
theorem check_block {s : State} (hrange : s.msgAddr.toNat + 64 ≤ s.memBytes) : check .block s = none :=
  check_eq_none_iff.2 ⟨rfl, rangeFails_eq_false rfl hrange, lengthFails_of_none rfl⟩

/-- HASH passes its checks when its message lies in MEM and, in mode REJECT, is short enough (60_exceptions.md R225,
R226). -/
theorem check_hash {s : State} (hrange : s.msgAddr.toNat + s.msgLen.toNat ≤ s.memBytes)
    (hlength : s.params.lengthMode = .reject → 8 * s.msgLen.toNat < 2 ^ 32) : check .hash s = none :=
  check_eq_none_iff.2 ⟨rfl, rangeFails_eq_false rfl hrange, lengthFails_eq_false rfl hlength⟩

/-- NOP accepted while idle (41_engine_commands.md R162). -/
theorem exec_nop_of_idle {s : State} (hb : s.busy = false) :
    exec .nop s = .next { acceptedAs .nop s with done := true } := by
  rw [exec, execNop, command_accept hb (check_nop s)]; rfl

/-- After NOP from power-on STATUS shows DONE alone (41_engine_commands.md R162). -/
theorem statusWord_nop_powerOn (p : Params) :
    statusWord { acceptedAs .nop (State.powerOn p) with done := true } = 0x00000002#32 := by
  simp [statusWord, State.powerOn]

/-- INIT accepted while idle (41_engine_commands.md R163). -/
theorem exec_init_of_idle {s : State} (hb : s.busy = false) :
    exec .init s = .next { acceptedAs .init s with H := IV, done := true } := by
  rw [exec, execInit, command_accept hb (check_init s)]; rfl

/-- BLOCK accepted while idle (41_engine_commands.md R164). -/
theorem exec_block_of_idle {s : State} (hb : s.busy = false) (hrange : s.msgAddr.toNat + 64 ≤ s.memBytes) :
    exec .block s = .next (startInvocation .block 64 (acceptedAs .block s)) := by
  rw [exec, execBlock, command_accept hb (check_block hrange)]

/-- HASH accepted while idle (41_engine_commands.md R165). -/
theorem exec_hash_of_idle {s : State} (hb : s.busy = false) (hrange : s.msgAddr.toNat + s.msgLen.toNat ≤ s.memBytes)
    (hlength : s.params.lengthMode = .reject → 8 * s.msgLen.toNat < 2 ^ 32) :
    exec .hash s = .next (startInvocation .hash s.msgLen.toNat (acceptedAs .hash s)) := by
  rw [exec, execHash, command_accept hb (check_hash hrange hlength)]; rfl

/-- A host write of a command's word to CMD is exec of that command (41_engine_commands.md R150). -/
theorem step_of_decode {s : State} {c : Word} {i : Instr} {rest : List Input} (hf : s.fault = none)
    (hi : s.inputs = .host (.regWrite 32 0x00 c) :: rest) (hd : decode c = some i) :
    step s = exec i { s with inputs := rest } := by
  rw [step_cmdWrite hf hi, hostWriteCmd, hd]

/-- A word of 32 bits is its own table word (20_memory.md R67). -/
theorem tableWord_toNat (c : Word) : tableWord 32 c.toNat = c := by
  rw [tableWord, Nat.mod_eq_of_lt c.isLt, BitVec.ofNat_toNat, BitVec.setWidth_eq]

/-! ### The statements about commands -/

/-- Settles O4: the write to CMD, and the word `withFetchWord` places is such a write. -/
theorem stepRunsTheDecodedCommand : Obligations.StepRunsTheDecodedCommand := by
  refine ⟨fun s c i rest hf hi hd => step_of_decode hf hi hd, fun s c i hf hd => ?_⟩
  rw [State.withFetchWord, tableWord_toNat]
  exact step_of_decode (s := withCommandFirst c s) hf rfl hd

/-- Settles O10: NOP passes every check and leaves only STATUS and the latched operands changed. -/
theorem nopCompletesAtOnce : Obligations.NopCompletesAtOnce :=
  ⟨rfl, fun _ hb => exec_nop_of_idle hb, fun p => ⟨_, exec_nop_of_idle rfl, statusWord_nop_powerOn p⟩⟩

/-- Settles O11: INIT passes every check and loads the table IV. -/
theorem initLoadsTheInitialHashState : Obligations.InitLoadsTheInitialHashState :=
  ⟨rfl, fun _ hb => exec_init_of_idle hb⟩

/-- Settles O12: the accepted BLOCK starts an invocation that keeps H. -/
theorem blockStartsOneRawBlock : Obligations.BlockStartsOneRawBlock :=
  ⟨rfl, fun _ hb hrange => exec_block_of_idle hb hrange⟩

/-- Settles O13: the accepted HASH starts an invocation over the padded message. -/
theorem hashStartsThePaddedMessage : Obligations.HashStartsThePaddedMessage :=
  ⟨rfl, fun _ hb hrange hlength => exec_hash_of_idle hb hrange hlength⟩

/-- Settles O9: a dropped and a rejected command write STATUS only; an accepted one leaves what its end says. -/
theorem commandsLeaveTheRestAlone : Obligations.CommandsLeaveTheRestAlone := by
  intro i s t h
  obtain ⟨-, rfl⟩ | ⟨-, c, -, rfl⟩ | ⟨hb, hc, -⟩ := exec_cases h
  · simp
  · simp
  · cases acceptEnd_of_exec hb hc h with
    | nop | init | block | hash | hmac => simp
    | shortKey k hl hk => simp [Nat.not_lt.2 hl]
    | longKey hl => simp [Nat.not_le.2 hl]

/-! ### Host accesses while a job runs -/

/-- Of the host accesses other than reset and a CMD write, none writes a byte of the running job's range
(20_memory.md R62). -/
theorem hostStep_keeps_active_bytes {a : HostAccess} {s t : State} (hb : s.busy = true) (hr : a ≠ .reset)
    (hc : isCmdWrite (.host a) = false) (h : hostStep a s = .next t) {addr : Nat} (hactive : inActiveRange s addr = true) :
    t.mem.read addr = s.mem.read addr := by
  obtain hm | ⟨addr', v, rfl, -, hm⟩ := hostStep_mem hr hc h
  · rw [hm]
  · obtain ⟨-, hfree, -⟩ := hostMemWrite_cases h
    have hne : addr' ≠ addr := by
      rintro rfl
      rw [hb, hactive] at hfree
      cases hfree
    rw [hm, Memory.read_write_other _ v hne]

/-- Settles O58: a CMD write is dropped, and every other access stays on the host's side and out of the active range. -/
theorem hostAccessesDoNotDisturbAJob : Obligations.HostAccessesDoNotDisturbAJob := by
  intro s t a hb hr h
  cases hc : isCmdWrite (.host a) with
  | true =>
    obtain ⟨c, rfl⟩ := (isCmdWrite_host_iff a).1 hc
    rw [hostWriteCmd_busy h hb]
    exact sameJob_iff.2 ⟨rfl, fun _ _ => rfl⟩
  | false => exact sameJob_iff.2 ⟨hostStep_hostSide hr hc h, fun _ ha => hostStep_keeps_active_bytes hb hr hc h ha⟩

/-! ### The sequencer's steps -/

/-- The sequencer's turn in phase LOAD. -/
theorem sequencerStep_load {s : State} (hb : s.busy = true) (hp : s.phase = .load) : sequencerStep s = stepLoad s := by
  simp only [sequencerStep_busy hb, hp]

/-- The sequencer's turn in phase SCHED. -/
theorem sequencerStep_sched {s : State} (hb : s.busy = true) (hp : s.phase = .sched) :
    sequencerStep s = .next (stepSched s) := by
  simp only [sequencerStep_busy hb, hp]

/-- The sequencer's turn in phase ROUND. -/
theorem sequencerStep_round {s : State} (hb : s.busy = true) (hp : s.phase = .round) :
    sequencerStep s = .next (stepRound s) := by
  simp only [sequencerStep_busy hb, hp]

/-- The sequencer's turn in phase ADD. -/
theorem sequencerStep_add {s : State} (hb : s.busy = true) (hp : s.phase = .add) :
    sequencerStep s = .next (stepAdd s) := by
  simp only [sequencerStep_busy hb, hp]

/-- ADD before the last block. -/
theorem stepAdd_of_lt {s : State} (h : s.blk + 1 < s.nblk) :
    stepAdd s = { s with H := addBack s.H s.V, blk := s.blk + 1, phase := .load } := if_pos h

/-- ADD of the last block. -/
theorem stepAdd_of_le {s : State} (h : s.nblk ≤ s.blk + 1) :
    stepAdd s = stageEnd (addBack s.H s.V) { s with H := addBack s.H s.V } := if_neg (Nat.not_lt.2 h)

/-- The stages BLOCK, HASH and OUTER end the job (41_engine_commands.md R158). -/
theorem stageEnd_eq_complete {s : State} (Hn : Vector Word 8)
    (hst : s.stage = .block ∨ s.stage = .hash ∨ s.stage = .outer) :
    stageEnd Hn s = complete s := by
  unfold stageEnd
  obtain hst | hst | hst := hst <;> simp only [hst]

/-- KEYHASH ends with the key digest in KBUF (42_hmac_composer.md R195). -/
theorem stageEnd_keyhash {s : State} (Hn : Vector Word 8) (hst : s.stage = .keyhash) :
    stageEnd Hn s = endKeyhash Hn s := by
  simp only [stageEnd, hst]

/-- INNER ends with the start of OUTER (42_hmac_composer.md R197). -/
theorem stageEnd_inner {s : State} (Hn : Vector Word 8) (hst : s.stage = .inner) :
    stageEnd Hn s = endInner Hn s := by
  simp only [stageEnd, hst]

/-- From the buffer's length on, the stream byte of a padded stage is the pad byte of any source (40_digest_datapath.md
R121). -/
theorem streamByte_pad {s : State} {j : Nat} (hst : s.stage ≠ .block) (hj : s.srcLen ≤ j) (src : Nat → Option Byte) :
    streamByte s j = padByte s.params.lengthMode s.srcLen j src := by
  rw [streamByte_of_ne_block hst, padByte, padByte, if_neg (Nat.not_lt.2 hj), if_neg (Nat.not_lt.2 hj)]

/-- Below the buffer's length, the stream byte of a padded stage is its source's (41_engine_commands.md R159). -/
theorem streamByte_source {s : State} {j : Nat} (hst : s.stage ≠ .block) (hj : j < s.srcLen) :
    streamByte s j = sourceByte s s.stage j := by
  rw [streamByte_of_ne_block hst, padByte, if_pos hj]

/-- The sequencer refuses nothing: every phase has its step (41_engine_commands.md R161). -/
theorem sequencerStep_ne_refused (s : State) (r : Refusal) : sequencerStep s ≠ .refused r := by
  intro h
  cases hb : s.busy with
  | false => rw [sequencerStep_idle hb] at h; cases h
  | true =>
    cases hp : s.phase with
    | load =>
      rw [sequencerStep_load hb hp] at h
      cases hB : currentBlock s with
      | some B => rw [stepLoad_of_some hB] at h; cases h
      | none => rw [stepLoad_of_none hB] at h; cases h
    | sched => rw [sequencerStep_sched hb hp] at h; cases h
    | round => rw [sequencerStep_round hb hp] at h; cases h
    | add => rw [sequencerStep_add hb hp] at h; cases h

/-- SCHED moves on (41_engine_commands.md R155). -/
theorem stepSched_ne {s : State} (hp : s.phase = .sched) : stepSched s ≠ s := by
  by_cases h63 : s.t.val = 63
  · intro h
    rw [stepSched_of_eq h63] at h
    cases (congrArg State.phase h).trans hp
  · intro h
    rw [stepSched_of_ne h63] at h
    exact absurd (congrArg State.t h) (by simp)

/-- ROUND moves on (41_engine_commands.md R156). -/
theorem stepRound_ne {s : State} (hp : s.phase = .round) : stepRound s ≠ s := by
  by_cases h63 : s.t.val = 63
  · intro h
    rw [stepRound_of_eq h63] at h
    cases (congrArg State.phase h).trans hp
  · intro h
    rw [stepRound_of_ne h63] at h
    exact absurd (congrArg State.t h) (by simp)

/-- ADD ends its block or its job (41_engine_commands.md R157). -/
theorem stepAdd_ne {s : State} (hb : s.busy = true) (hp : s.phase = .add) : stepAdd s ≠ s := by
  intro h
  have ha : AddEnd s (stepAdd s) := addEnd_stepAdd s
  generalize stepAdd s = t at h ha
  cases ha with
  | nextBlock | outer => cases (congrArg State.phase h).trans hp
  | done | keyDone => cases (congrArg State.busy h).trans hb

/-- While BUSY = 1 the sequencer's turn changes the state (41_engine_commands.md R161). -/
theorem sequencerStep_ne {s t : State} (hb : s.busy = true) (h : sequencerStep s = .next t) : t ≠ s := by
  obtain ⟨hidle, -⟩ | ⟨-, ⟨hp, B, -, rfl⟩ | ⟨hp, rfl⟩ | ⟨hp, rfl⟩ | ⟨hp, rfl⟩⟩ := sequencerStep_cases h
  · cases hb.symm.trans hidle
  · intro h
    cases (congrArg State.phase h).trans hp
  · exact stepSched_ne hp
  · exact stepRound_ne hp
  · exact stepAdd_ne hb hp

/-! ### The statements about the sequencer -/

/-- Settles O18: the stream byte by stage, and LOAD by whether its block was read whole. -/
theorem loadDecodesTheBlockBigEndian : Obligations.LoadDecodesTheBlockBigEndian := by
  refine ⟨fun s j =>
      ⟨fun hst _ => ?_, fun hst hj => ?_, fun hst hj => ?_, fun hst hj _ src => streamByte_pad hst hj src⟩,
    fun s hb hp => ⟨fun B hB => ?_, fun hmissing => ?_⟩⟩
  · rw [streamByte_of_block hst, hst]; rfl
  · rw [streamByte_source (by simp [hst]) hj, hst]; rfl
  · rw [streamByte_source (by simp [hst]) hj, hst]; rfl
  · refine ⟨loadWords s.W B, fun i h => getElem_loadWords_lt s.W B i h,
      fun i h h16 => getElem_loadWords_ge s.W B i h h16, ?_⟩
    rw [sequencerStep_load hb hp, stepLoad_of_some (gather64_eq_some_iff.2 hB)]; rfl
  · rw [sequencerStep_load hb hp, stepLoad_of_none (gather64_eq_none_iff.2 hmissing)]

/-- Settles O19: SCHED at its last entry and before it. -/
theorem schedWritesOneScheduleEntry : Obligations.SchedWritesOneScheduleEntry := by
  intro s hb hp _
  rw [sequencerStep_sched hb hp]
  by_cases h63 : s.t.val = 63
  · rw [stepSched_of_eq h63]
    rw [if_pos h63, if_pos h63]
    rfl
  · rw [stepSched_of_ne h63]
    rw [if_neg h63, if_neg h63, ← hp]
    rfl

/-- Settles O20: ROUND at its last index and before it. -/
theorem roundRotatesTheWorkingRegisters : Obligations.RoundRotatesTheWorkingRegisters := by
  rintro s hb hp _ _ rfl rfl
  rw [sequencerStep_round hb hp]
  by_cases h63 : s.t.val = 63
  · rw [stepRound_of_eq h63]
    rw [if_pos h63, if_pos h63]
    rfl
  · rw [stepRound_of_ne h63]
    rw [if_neg h63, if_neg h63, ← hp]
    rfl

/-- Settles O21: the sum of H and V is the add-back, and ADD ends by its block and its stage. -/
theorem addEndsTheBlockOrTheStage : Obligations.AddEndsTheBlockOrTheStage := by
  intro s Hn hb hp hsum
  obtain rfl : Hn = addBack s.H s.V := Vector.ext fun i h => (hsum i h).trans (getElem_addBack _ _ i h).symm
  rw [sequencerStep_add hb hp]
  refine ⟨fun hlt => ?_, fun hle hst => ?_, fun hle hst => ⟨keyOfDigest (addBack s.H s.V), toList_keyOfDigest _, ?_⟩,
    fun hle hst => ?_⟩
  · rw [stepAdd_of_lt hlt]
  · exact congrArg _ ((stepAdd_of_le hle).trans (stageEnd_eq_complete _ hst))
  · exact congrArg _ ((stepAdd_of_le hle).trans (stageEnd_keyhash _ hst))
  · exact congrArg _ ((stepAdd_of_le hle).trans (stageEnd_inner _ hst))

/-- Settles O22: an idle turn changes nothing; a turn while busy that does not fault moves on. -/
theorem sequencerStepsExactlyWhileBusy : Obligations.SequencerStepsExactlyWhileBusy := by
  intro s rest hf hi
  rw [step_turn hf hi]
  refine ⟨fun hb => sequencerStep_idle hb, fun hb => ?_⟩
  cases h : sequencerStep { s with inputs := rest } with
  | next t => exact .inl ⟨t, rfl, sequencerStep_ne hb h⟩
  | fault k => obtain ⟨-, -, -, rfl⟩ := sequencerStep_eq_fault_iff.1 h; exact .inr rfl
  | refused r => exact absurd h (sequencerStep_ne_refused _ r)

/-- Settles O23: which registers each internal step writes, LOAD, SCHED and ROUND by their results and ADD by its four
ends. -/
theorem sequencerLeavesTheRestAlone : Obligations.SequencerLeavesTheRestAlone := by
  intro s t h
  obtain ⟨-, rfl⟩ | ⟨hb, ⟨hp, B, -, rfl⟩ | ⟨hp, rfl⟩ | ⟨hp, rfl⟩ | ⟨hp, rfl⟩⟩ := sequencerStep_cases h
  · simp
  · simp [hp, hb]
  · rw [stepSched_frame]; simp [hp, hb]
  · rw [stepRound_frame]; simp [hp, hb]
  · have ha : AddEnd s (stepAdd s) := addEnd_stepAdd s
    generalize stepAdd s = t at ha
    cases ha with
    | nextBlock | done => simp [hp, hb]
    | keyDone _ hst | outer _ hst => simp [hp, hb, hst]

/-! ### Runs that keep BUSY = 1 -/

/-- `n` steps lead from `s` to `t`, with BUSY = 1 before each of them (41_engine_commands.md R168). -/
structure BusyRun (n : Nat) (s t : State) : Prop where
  ends : run n s = .next t
  busy : ∀ k < n, ∃ u, run k s = .next u ∧ u.busy = true

/-- No step at all. -/
theorem BusyRun.zero (s : State) : BusyRun 0 s s := ⟨rfl, nofun⟩

/-- One busy run after another. -/
theorem BusyRun.trans {m n : Nat} {s t u : State} (h : BusyRun m s t) (h' : BusyRun n t u) : BusyRun (m + n) s u := by
  refine ⟨(run_add n h.ends).trans h'.ends, fun k hk => ?_⟩
  rcases Nat.lt_or_ge k m with hlt | hge
  · exact h.busy k hlt
  · obtain ⟨j, rfl⟩ := Nat.exists_eq_add_of_le hge
    rw [run_add j h.ends]
    exact h'.busy j (by omega)

/-- A busy run that follows a first step keeps BUSY = 1 for as many steps after it. -/
theorem BusyRun.after_step {n : Nat} {s t u : State} (hs : step s = .next t) (h : BusyRun n t u) :
    busyFor n s ∧ run (1 + n) s = .next u := by
  have hrun (k : Nat) : run (1 + k) s = run k t := by rw [Nat.add_comm, run_succ_of_step k hs]
  exact ⟨fun k hk => by rw [hrun]; exact h.busy k hk, (hrun n).trans h.ends⟩

/-- The 114 steps of a block that is read whole (41_engine_commands.md R168). -/
theorem busyRun_block {s : State} (h : Turning s) (hp : s.phase = .load) {B : Vector Byte 64}
    (hB : currentBlock s = some B) : BusyRun 114 s (stepAdd (beforeAdd B s)) :=
  ⟨(run_block h hp hB).1, fun k hk => busy_within_block h hp hB k (Nat.le_of_lt_succ hk)⟩

/-! ### The blocks of a padded invocation -/

/-- `s` is at the start of an invocation over the padded bytes `m`: its source holds them, H is IV, and the sequencer has
the turn for good (41_engine_commands.md R153). -/
structure StartsPadded (m : List Byte) (s : State) : Prop where
  turning : Turning s
  loading : s.phase = .load
  first : s.blk = 0
  fresh : s.H = IV
  length : s.srcLen = m.length
  blocks : s.nblk = numBlocks m.length
  padded : s.stage ≠ .block
  source : ∀ k (h : k < m.length), sourceByte s s.stage k = some m[k]

/-- The state `s` with the progress of `u`: the registers that the blocks of an invocation write before its stage ends. -/
def State.withProgress (s u : State) : State :=
  { s with H := u.H, V := u.V, W := u.W, blk := u.blk, phase := u.phase, t := u.t }

/-- `u` is the invocation begun at `s` over the padded bytes `m` with its first `n` blocks compressed
(40_digest_datapath.md R123). -/
structure AtBlock (m : List Byte) (s : State) (n : Nat) (u : State) : Prop where
  progress : u = s.withProgress u
  hash : u.H = hashBlocks s.params.lengthMode m n
  index : u.blk = n
  loading : u.phase = .load

/-- No stream byte depends on the progress of the invocation. -/
theorem streamByte_withProgress (s u : State) (j : Nat) : streamByte (s.withProgress u) j = streamByte s j := rfl

section
variable {m : List Byte} {s : State} (hs : StartsPadded m s)
include hs

/-- The stream of the invocation is the padded buffer (41_engine_commands.md R159). -/
theorem StartsPadded.streamByte_eq (j : Nat) : streamByte s j = (pad s.params.lengthMode m)[j]? := by
  rw [streamByte_of_ne_block hs.padded, hs.length]
  exact padByte_eq_getElem?_pad _ m hs.source j

/-- LOAD reads block n of the padded buffer (40_digest_datapath.md R122). -/
theorem StartsPadded.currentBlock_eq {n : Nat} {u : State} (hu : AtBlock m s n u) (hn : n < numBlocks m.length) :
    currentBlock u = some (padBlock s.params.lengthMode m n) := by
  refine gather64_eq_some_iff.2 fun i hi => ?_
  have hlen : 64 * n + i < (pad s.params.lengthMode m).length := by rw [length_pad, paddedLen]; omega
  rw [hu.index, hu.progress, streamByte_withProgress, hs.streamByte_eq,
    List.getElem?_eq_getElem hlen]
  simp [padBlock, List.getElem?_eq_getElem hlen]

/-- The sequencer still has the turn at every block. -/
theorem StartsPadded.turning_atBlock {n : Nat} {u : State} (hu : AtBlock m s n u) : Turning u := by
  rw [hu.progress]
  exact ⟨hs.turning.noFault, hs.turning.noInput, hs.turning.running⟩

/-- The invocation keeps its number of blocks. -/
theorem StartsPadded.nblk_atBlock {n : Nat} {u : State} (hu : AtBlock m s n u) : u.nblk = numBlocks m.length := by
  rw [hu.progress]
  exact hs.blocks

/-- One block more: 114 steps to its ADD. -/
theorem StartsPadded.busyRun_next {n : Nat} {u : State} (hu : AtBlock m s n u) (hn : n < numBlocks m.length) :
    BusyRun 114 u (stepAdd (beforeAdd (padBlock s.params.lengthMode m n) u)) :=
  busyRun_block (hs.turning_atBlock hu) hu.loading (hs.currentBlock_eq hu hn)

/-- The first n blocks, when more are to follow. -/
theorem StartsPadded.busyRun_blocks {n : Nat} (hn : n < numBlocks m.length) :
    ∃ u, AtBlock m s n u ∧ BusyRun (114 * n) s u := by
  induction n with
  | zero => exact ⟨s, ⟨rfl, hs.fresh, hs.first, hs.loading⟩, .zero s⟩
  | succ n ih =>
    obtain ⟨u, hu, hrun⟩ := ih (by omega)
    have hmore : u.blk + 1 < u.nblk := by rw [hs.nblk_atBlock hu, hu.index]; exact hn
    have hblock := hs.busyRun_next hu (by omega)
    rw [stepAdd_of_lt (s := beforeAdd _ u) hmore] at hblock
    refine ⟨_, ⟨?_, ?_, ?_, rfl⟩, hrun.trans hblock⟩
    · rw [hu.progress]; rfl
    · rw [hashBlocks, ← hu.hash]; rfl
    · rw [← hu.index]; rfl

/-- The whole invocation, up to the end of its stage: H is the digest of the padded bytes (41_engine_commands.md R158,
40_digest_datapath.md R123). -/
theorem StartsPadded.busyRun_stageEnd : ∃ u, u = s.withProgress u ∧ u.H = sha256Words s.params.lengthMode m ∧
    BusyRun (114 * numBlocks m.length) s (stageEnd u.H u) := by
  obtain ⟨n, hn⟩ : ∃ n, numBlocks m.length = n + 1 := ⟨_, rfl⟩
  obtain ⟨u, hu, hrun⟩ := hs.busyRun_blocks (n := n) (by omega)
  have hlast : u.nblk ≤ u.blk + 1 := by rw [hs.nblk_atBlock hu, hu.index, hn]
  have hblock := hs.busyRun_next hu (by omega)
  rw [stepAdd_of_le (s := beforeAdd _ u) hlast] at hblock
  refine ⟨{ beforeAdd (padBlock s.params.lengthMode m n) u with H := compress u.H (padBlock s.params.lengthMode m n) },
    ?_, ?_, ?_⟩
  · rw [hu.progress]; rfl
  · rw [sha256Words, hn, hashBlocks, ← hu.hash]
  · rw [hn]; exact hrun.trans hblock

end

/-! ### The statements about jobs -/

/-- The bytes of a raw block are the block's own (41_engine_commands.md R159). -/
theorem currentBlock_of_block {s : State} {B : Vector Byte 64} (hst : s.stage = .block) (hblk : s.blk = 0)
    (hB : holdsBytes s s.lMsgAddr B.toList) : currentBlock s = some B := by
  refine gather64_eq_some_iff.2 fun i hi => ?_
  rw [streamByte_of_block hst, hst, hblk, Nat.mul_zero, Nat.zero_add]
  exact (hB i (by simpa using hi)).trans (by simp)

/-- The one block of a BLOCK job, with the end of its stage (41_engine_commands.md R157, R158). -/
theorem busyRun_rawBlock {s : State} {B : Vector Byte 64} (h : Turning s) (hp : s.phase = .load)
    (hst : s.stage = .block) (hblk : s.blk = 0) (hnblk : s.nblk = 1) (hB : holdsBytes s s.lMsgAddr B.toList) :
    BusyRun 114 s (complete { beforeAdd B s with H := compress s.H B }) := by
  have hlast : s.nblk ≤ s.blk + 1 := by omega
  have hadd := (stepAdd_of_le (s := beforeAdd B s) hlast).trans (stageEnd_eq_complete _ (.inl hst))
  have hblock := busyRun_block h hp (currentBlock_of_block hst hblk hB)
  rw [hadd] at hblock
  exact hblock

/-- Settles O33: the accepted BLOCK, the 114 steps of its one block, and the end of its stage. -/
theorem blockJobCompressesItsBytes : Obligations.BlockJobCompressesItsBytes := by
  intro s B ⟨hf, hb⟩ hi hrange hB
  have hstep := (step_of_decode hf hi (decode_encode .block)).trans
    (exec_block_of_idle (s := { s with inputs := [] }) hb hrange)
  have hjob := busyRun_rawBlock (s := startInvocation .block 64 (acceptedAs .block { s with inputs := [] }))
    ⟨hf, rfl, rfl⟩ rfl rfl rfl rfl hB
  obtain ⟨hbusy, hrun⟩ := hjob.after_step hstep
  exact ⟨hbusy, _, hrun, rfl, rfl, rfl, rfl, rfl, rfl, rfl, rfl, rfl, rfl, rfl, rfl, hf, rfl⟩

/-- The accepted HASH of a message held in MEM starts an invocation over it (41_engine_commands.md R165). -/
theorem startsPadded_hash {s : State} {m : List Byte} (hf : s.fault = none) (hi : s.inputs = [])
    (hlen : m.length = s.msgLen.toNat) (hm : holdsBytes s s.msgAddr.toNat m) :
    StartsPadded m (startInvocation .hash s.msgLen.toNat (acceptedAs .hash s)) where
  turning := ⟨hf, hi, rfl⟩
  loading := rfl
  first := rfl
  fresh := rfl
  length := hlen.symm
  blocks := by rw [hlen]; rfl
  padded := nofun
  source := hm

/-- Settles O34: the accepted HASH, the blocks of its padded message, and the end of its stage. -/
theorem hashJobComputesSha256 : Obligations.HashJobComputesSha256 := by
  intro s m ⟨hf, hb⟩ hi hlen hrange hlength hm
  rw [hlen] at hrange hlength
  have hstep := (step_of_decode hf hi (decode_encode .hash)).trans
    (exec_hash_of_idle (s := { s with inputs := [] }) hb hrange hlength)
  obtain ⟨u, hu, hH, hjob⟩ := (startsPadded_hash (s := { s with inputs := [] }) hf rfl hlen hm).busyRun_stageEnd
  have hend : stageEnd u.H u = complete u := stageEnd_eq_complete _ (.inr (.inl (by rw [hu]; rfl)))
  obtain ⟨hbusy, hrun⟩ := (hend ▸ hjob).after_step hstep
  refine ⟨hbusy, complete u, hrun, congrArg bytesBE hH, rfl, rfl, ?_⟩
  rw [hu]
  exact ⟨rfl, rfl, rfl, rfl, rfl, rfl, rfl, rfl, rfl, hf, rfl⟩

end Sys2Proof.Machine

/-! The HMAC composer (42_hmac_composer.md): what KEYLOAD and HMAC do when they are accepted, the invocations that their
stages start, and what the host cannot read; then the statements about them. -/

namespace Sys2Proof.Machine

open Sys2Proof.Config

/-! ### The block-sized key -/

/-- K0 of a short key is the key and zeros (42_hmac_composer.md R190). -/
theorem blockKey_of_le {mode : LengthMode} {key : List Byte} (h : key.length ≤ 64) :
    blockKey mode key = key ++ List.replicate (64 - key.length) 0x00#8 := if_neg (Nat.not_lt.2 h)

/-- K0 of a long key is its digest and zeros (42_hmac_composer.md R190). -/
theorem blockKey_of_lt {mode : LengthMode} {key : List Byte} (h : 64 < key.length) :
    blockKey mode key = sha256 mode key ++ List.replicate 32 0x00#8 := if_pos h

/-- Zeros appended to a short key are those K0 would append (42_hmac_composer.md R190). -/
theorem blockKey_append_zeros {mode : LengthMode} {key : List Byte} {n : Nat} (h : key.length + n ≤ 64) :
    blockKey mode (key ++ List.replicate n 0x00#8) = blockKey mode key := by
  have hlen : (key ++ List.replicate n 0x00#8).length = key.length + n := by simp
  have hzeros : n + (64 - (key.length + n)) = 64 - key.length := by omega
  rw [blockKey_of_le (hlen ▸ h), blockKey_of_le (by omega), hlen, List.append_assoc,
    List.replicate_append_replicate, hzeros]

/-- 64 bytes gathered from a source that holds the list `l`. -/
theorem gather64_eq_some_of_list {f : Nat → Option Byte} {l : List Byte} (hl : l.length = 64)
    (h : ∀ i < 64, f i = l[i]?) : ∃ k : Vector Byte 64, k.toList = l ∧ gather64 f = some k := by
  refine ⟨⟨l.toArray, by simpa using hl⟩, rfl, gather64_eq_some_iff.2 fun i hi => ?_⟩
  rw [h i hi, List.getElem?_eq_getElem (by omega)]
  rfl

/-- Byte j of a written key and zeros (42_hmac_composer.md R194). -/
theorem shortKeyByte_eq_getElem? {s : State} {key : List Byte} (hlen : key.length = s.lKeyLen)
    (hkey : holdsBytes s s.lKeyAddr key) {j : Nat} (hj : j < 64) :
    shortKeyByte s j = (key ++ List.replicate (64 - key.length) 0x00#8)[j]? := by
  unfold shortKeyByte
  split_ifs with h
  · rw [List.getElem?_append_left (by omega), List.getElem?_eq_getElem (by omega)]
    exact hkey j (by omega)
  · rw [List.getElem?_append_right (by omega), List.getElem?_replicate_of_lt (by omega)]

/-! ### Commands accepted while idle -/

/-- KEYLOAD passes its checks when its key lies in MEM and, if it is long and the mode is REJECT, is short enough
(60_exceptions.md R225, R226). -/
theorem check_keyload {s : State} (hrange : s.keyAddr.toNat + s.keyLen.toNat ≤ s.memBytes)
    (hlength : s.params.lengthMode = .reject → 64 < s.keyLen.toNat → 8 * s.keyLen.toNat < 2 ^ 32) :
    check .keyload s = none := by
  refine check_eq_none_iff.2 ⟨rfl, rangeFails_eq_false rfl hrange, ?_⟩
  by_cases hlong : 64 < s.keyLen.toNat
  · exact lengthFails_eq_false (if_pos hlong) fun hm => hlength hm hlong
  · exact lengthFails_of_none (if_neg hlong)

/-- HMAC passes its checks when a key is loaded, its message lies in MEM and, in mode REJECT, the inner buffer is short
enough (60_exceptions.md R224 to R226). -/
theorem check_hmac {s : State} (hkey : s.keyValid = true) (hrange : s.msgAddr.toNat + s.msgLen.toNat ≤ s.memBytes)
    (hlength : s.params.lengthMode = .reject → 8 * (64 + s.msgLen.toNat) < 2 ^ 32) : check .hmac s = none :=
  check_eq_none_iff.2 ⟨by rw [keyMissing, hkey]; rfl, rangeFails_eq_false rfl hrange, lengthFails_eq_false rfl hlength⟩

/-- KEYLOAD of a short key goes on with its key bytes (42_hmac_composer.md R194). -/
theorem exec_keyload_of_le {s : State} (hb : s.busy = false) (hrange : s.keyAddr.toNat + s.keyLen.toNat ≤ s.memBytes)
    (hshort : s.keyLen.toNat ≤ 64) :
    exec .keyload s = loadShortKey { acceptedAs .keyload s with keyValid := false } := by
  rw [exec, execKeyload, command_accept hb (check_keyload hrange fun _ hlong => by omega)]
  exact if_pos hshort

/-- KEYLOAD of a long key starts the KEYHASH stage, without the old key (42_hmac_composer.md R194). -/
theorem exec_keyload_of_lt {s : State} (hb : s.busy = false) (hrange : s.keyAddr.toNat + s.keyLen.toNat ≤ s.memBytes)
    (hlong : 64 < s.keyLen.toNat) (hlength : s.params.lengthMode = .reject → 8 * s.keyLen.toNat < 2 ^ 32) :
    exec .keyload s =
      .next (startInvocation .keyhash s.keyLen.toNat { acceptedAs .keyload s with keyValid := false }) := by
  rw [exec, execKeyload, command_accept hb (check_keyload hrange fun hm _ => hlength hm)]
  exact if_neg (Nat.not_le.2 hlong)

/-- KEYLOAD of a short key held in MEM (42_hmac_composer.md R194). -/
theorem exec_keyload_of_holdsBytes {s : State} {key : List Byte} (hb : s.busy = false)
    (hrange : s.keyAddr.toNat + s.keyLen.toNat ≤ s.memBytes) (hlen : key.length = s.keyLen.toNat)
    (hshort : key.length ≤ 64) (hkey : holdsBytes s s.keyAddr.toNat key) :
    ∃ k : Vector Byte 64, k.toList = key ++ List.replicate (64 - key.length) 0x00#8 ∧
      exec .keyload s = .next { acceptedAs .keyload s with KBUF := k, keyValid := true, done := true } := by
  obtain ⟨k, hk, hgather⟩ := gather64_eq_some_of_list (by simp; omega) fun j hj =>
    shortKeyByte_eq_getElem? (s := { acceptedAs .keyload s with keyValid := false }) hlen hkey hj
  exact ⟨k, hk, (exec_keyload_of_le hb hrange (hlen ▸ hshort)).trans (loadShortKey_of_some hgather)⟩

/-- HMAC starts the INNER stage (42_hmac_composer.md R196). -/
theorem exec_hmac_of_idle {s : State} (hb : s.busy = false) (hkey : s.keyValid = true)
    (hrange : s.msgAddr.toNat + s.msgLen.toNat ≤ s.memBytes)
    (hlength : s.params.lengthMode = .reject → 8 * (64 + s.msgLen.toNat) < 2 ^ 32) :
    exec .hmac s = .next (startInvocation .inner (64 + s.msgLen.toNat) (acceptedAs .hmac s)) := by
  rw [exec, execHmac, command_accept hb (check_hmac hkey hrange hlength)]; rfl

/-! ### The statements about KEYLOAD, HMAC and their keys -/

/-- Settles O14: the gathered key bytes are the key and zeros. -/
theorem shortKeyloadCompletesAtOnce : Obligations.ShortKeyloadCompletesAtOnce :=
  ⟨rfl, fun _ _ hb hrange hlen hshort hkey => exec_keyload_of_holdsBytes hb hrange hlen hshort hkey⟩

/-- Settles O32: both keys have the same K0, and the code depends on the key through K0 only. -/
theorem trailingZerosOfAShortKeyDoNotMatter : Obligations.TrailingZerosOfAShortKeyDoNotMatter := by
  intro mode key m n h
  rw [hmac, hmac, blockKey_append_zeros h]

/-- Settles O15: the unwritten byte is one of the 64 that KEYLOAD gathers. -/
theorem shortKeyloadFaultsOnAnUnwrittenByte : Obligations.ShortKeyloadFaultsOnAnUnwrittenByte := by
  intro s k hb hrange hshort hk hmissing
  rw [exec_keyload_of_le hb hrange hshort]
  refine loadShortKey_of_none (gather64_eq_none_iff.2 ⟨k, by omega, ?_⟩)
  exact (if_pos hk).trans hmissing

/-- Settles O16: the accepted KEYLOAD of a long key starts an invocation over the key. -/
theorem longKeyloadStartsTheKeyhashStage : Obligations.LongKeyloadStartsTheKeyhashStage :=
  fun _ hb hrange hlong hlength => exec_keyload_of_lt hb hrange hlong hlength

/-- Settles O17: the accepted HMAC starts an invocation over the inner buffer. -/
theorem hmacStartsTheInnerStage : Obligations.HmacStartsTheInnerStage :=
  ⟨rfl, fun _ hb hkey hrange hlength => exec_hmac_of_idle hb hkey hrange hlength⟩

/-! ### Where the bytes of the key blocks come from -/

/-- A byte of the inner key block (42_hmac_composer.md R191, 41_engine_commands.md R159). -/
theorem sourceByte_inner_of_lt (s : State) {k : Nat} (h : k < 64) : sourceByte s .inner k = some (s.KBUF[k] ^^^ ipad) :=
  dif_pos h

/-- The message follows the inner key block (42_hmac_composer.md R191, 41_engine_commands.md R159). -/
theorem sourceByte_inner_of_ge (s : State) {k : Nat} (h : 64 ≤ k) :
    sourceByte s .inner k = s.mem.read (s.lMsgAddr + (k - 64)) := dif_neg (Nat.not_lt.2 h)

/-- A byte of the outer key block (42_hmac_composer.md R192, 41_engine_commands.md R159). -/
theorem sourceByte_outer_of_lt (s : State) {k : Nat} (h : k < 64) : sourceByte s .outer k = some (s.KBUF[k] ^^^ opad) :=
  dif_pos h

/-- The inner digest follows the outer key block (42_hmac_composer.md R192, 41_engine_commands.md R159). -/
theorem sourceByte_outer_of_ge (s : State) {k : Nat} (h : 64 ≤ k) :
    sourceByte s .outer k = (bytesBE s.IDIG)[k - 64]? := dif_neg (Nat.not_lt.2 h)

/-- The INNER source holds the inner buffer of KBUF and the message (42_hmac_composer.md R191). -/
theorem sourceByte_inner {s : State} {m : List Byte} (hm : holdsBytes s s.lMsgAddr m) (k : Nat)
    (h : k < (innerBuf s.KBUF.toList m).length) : sourceByte s .inner k = some (innerBuf s.KBUF.toList m)[k] := by
  rw [length_innerBuf, Vector.length_toList] at h
  by_cases hk : k < 64
  · simp [sourceByte_inner_of_lt s hk, innerBuf, hk]
  · rw [sourceByte_inner_of_ge s (by omega), hm (k - 64) (by omega)]
    simp [innerBuf, List.getElem_append, hk]

/-- The OUTER source holds the outer buffer of KBUF and the inner digest (42_hmac_composer.md R192). -/
theorem sourceByte_outer (s : State) (k : Nat) (h : k < (outerBuf s.KBUF.toList (bytesBE s.IDIG)).length) :
    sourceByte s .outer k = some (outerBuf s.KBUF.toList (bytesBE s.IDIG))[k] := by
  rw [length_outerBuf, Vector.length_toList, length_bytesBE] at h
  by_cases hk : k < 64
  · simp [sourceByte_outer_of_lt s hk, outerBuf, hk]
  · rw [sourceByte_outer_of_ge s (by omega), List.getElem?_eq_getElem (by simp; omega)]
    simp [outerBuf, List.getElem_append, hk]

/-! ### The invocations of KEYLOAD and HMAC -/

/-- The accepted KEYLOAD of a key held in MEM starts an invocation over it (42_hmac_composer.md R194). -/
theorem startsPadded_keyhash {s : State} {key : List Byte} (hf : s.fault = none) (hi : s.inputs = [])
    (hlen : key.length = s.keyLen.toNat) (hkey : holdsBytes s s.keyAddr.toNat key) :
    StartsPadded key (startInvocation .keyhash s.keyLen.toNat { acceptedAs .keyload s with keyValid := false }) where
  turning := ⟨hf, hi, rfl⟩
  loading := rfl
  first := rfl
  fresh := rfl
  length := hlen.symm
  blocks := by rw [hlen]; rfl
  padded := nofun
  source := hkey

/-- The accepted HMAC of a message held in MEM, with K0 in KBUF, starts an invocation over the inner buffer
(42_hmac_composer.md R196). -/
theorem startsPadded_inner {s : State} {k0 m : List Byte} (hf : s.fault = none) (hi : s.inputs = [])
    (hk0 : s.KBUF.toList = k0) (hlen : m.length = s.msgLen.toNat) (hm : holdsBytes s s.msgAddr.toNat m) :
    StartsPadded (innerBuf k0 m) (startInvocation .inner (64 + s.msgLen.toNat) (acceptedAs .hmac s)) where
  turning := ⟨hf, hi, rfl⟩
  loading := rfl
  first := rfl
  fresh := rfl
  length := by simp [← hk0, hlen]
  blocks := by simp [← hk0, hlen]
  padded := nofun
  source := hk0 ▸ sourceByte_inner (s := startInvocation .inner (64 + s.msgLen.toNat) (acceptedAs .hmac s)) hm

/-- The end of INNER starts an invocation over the outer buffer (42_hmac_composer.md R197). -/
theorem startsPadded_outer {s : State} (h : Turning s) (Hn : Vector Word 8) :
    StartsPadded (outerBuf s.KBUF.toList (bytesBE Hn)) (endInner Hn s) where
  turning := ⟨h.noFault, h.noInput, rfl⟩
  loading := rfl
  first := rfl
  fresh := rfl
  length := by simp [endInner]
  blocks := by simp [endInner]
  padded := nofun
  source := sourceByte_outer (endInner Hn s)

/-- An invocation whose stage ends in `f`: its blocks lead to `f` of its digest (41_engine_commands.md R158). -/
theorem StartsPadded.busyRun_of_stageEnd {s : State} {buf : List Byte} (h : StartsPadded buf s)
    {f : Vector Word 8 → State → State} (hend : ∀ Hn u, u.stage = s.stage → stageEnd Hn u = f Hn u) :
    ∃ u, u = s.withProgress u ∧ u.H = sha256Words s.params.lengthMode buf ∧
      BusyRun (114 * numBlocks buf.length) s (f u.H u) := by
  obtain ⟨u, hu, hH, hrun⟩ := h.busyRun_stageEnd
  exact ⟨u, hu, hH, hend u.H u (by rw [hu]; rfl) ▸ hrun⟩

/-- An HMAC job is its INNER and its OUTER stage, which leave H the code of K0 and the message; what else changes is the
place and the progress of the invocation and IDIG (42_hmac_composer.md R193, R197). -/
theorem StartsPadded.busyRun_hmac {s : State} {k0 m : List Byte} (h : StartsPadded (innerBuf k0 m) s)
    (hst : s.stage = .inner) (hk0 : s.KBUF.toList = k0) :
    ∃ v, v = { s with
        busy := v.busy, H := v.H, V := v.V, W := v.W, IDIG := v.IDIG, stage := v.stage, srcLen := v.srcLen,
        nblk := v.nblk, blk := v.blk, phase := v.phase, t := v.t } ∧
      v.H = hmacWordsOfK0 s.params.lengthMode k0 m ∧
      BusyRun (114 * (numBlocks (64 + m.length) + 2)) s (complete v) := by
  obtain ⟨u, hu, hH, hinner⟩ := h.busyRun_of_stageEnd (f := endInner) fun Hn u hu => stageEnd_inner Hn (hu.trans hst)
  have hturning : Turning u := by rw [hu]; exact ⟨h.turning.noFault, h.turning.noInput, h.turning.running⟩
  obtain ⟨v, hv, hH', houter⟩ := (startsPadded_outer hturning u.H).busyRun_of_stageEnd (f := fun _ => complete)
    fun Hn v hv => stageEnd_eq_complete Hn (.inr (.inr hv))
  refine ⟨v, ?_, ?_, ?_⟩
  · rw [hv, hu]; rfl
  · rw [hH', hH, hu, ← hk0]; rfl
  · subst hk0
    simpa [Nat.mul_add, numBlocks] using hinner.trans houter

/-! ### The statements about the jobs -/

/-- Settles O35: a short key is loaded by the accepting step, a long one by the KEYHASH stage. -/
theorem keyloadHoldsTheBlockSizedKey : Obligations.KeyloadHoldsTheBlockSizedKey := by
  intro s key ⟨hf, hb⟩ hi hlen hrange hlength hkey
  have hstep := step_of_decode hf hi (decode_encode .keyload)
  rw [hlen] at hrange
  rcases Nat.lt_or_ge 64 key.length with hlong | hshort
  · have haccept := exec_keyload_of_lt (s := { s with inputs := [] }) hb hrange (hlen ▸ hlong)
      fun hm => hlen ▸ hlength hm hlong
    obtain ⟨u, hu, hH, hjob⟩ :=
      (startsPadded_keyhash (s := { s with inputs := [] }) hf rfl hlen hkey).busyRun_of_stageEnd (f := endKeyhash)
        fun Hn u hu => stageEnd_keyhash Hn hu
    obtain ⟨hbusy, hrun⟩ := hjob.after_step (hstep.trans haccept)
    have hdigest : bytesBE u.H = sha256 s.params.lengthMode key := congrArg bytesBE hH
    refine ⟨fun _ => hbusy, endKeyhash u.H u, by rw [if_pos hlong]; exact hrun, ?_, rfl, rfl, rfl, ?_⟩
    · rw [blockKey_of_lt hlong, ← hdigest]
      exact toList_keyOfDigest u.H
    · refine ⟨?_, ?_, fun _ => hdigest, fun h => absurd hlong (Nat.not_lt.2 h), ?_⟩ <;> rw [hu]
      · rfl
      · rfl
      · exact ⟨rfl, rfl, rfl, rfl, rfl, hf, rfl⟩
  · obtain ⟨k, hk, haccept⟩ :=
      exec_keyload_of_holdsBytes (s := { s with inputs := [] }) hb hrange hlen hshort hkey
    have hno : ¬ 64 < key.length := Nat.not_lt.2 hshort
    refine ⟨fun h => absurd h hno, _, by rw [if_neg hno]; exact run_succ_of_step 0 (hstep.trans haccept), ?_⟩
    exact ⟨hk.trans (blockKey_of_le hshort).symm, rfl, hb, rfl, rfl, rfl, fun h => absurd h hno, fun _ => rfl, rfl, rfl,
      rfl, rfl, rfl, hf, rfl⟩

/-- Settles O36: the stream below the padding is the stage's source; the job is the INNER and then the OUTER stage. -/
theorem hmacJobComputesTheCode : Obligations.HmacJobComputesTheCode := by
  refine ⟨fun s j hj => ⟨fun hst => ?_, fun hst => ?_⟩, fun mode key m => rfl, ?_⟩
  · rw [streamByte_source (by simp [hst]) hj, hst]
    exact ⟨fun h => sourceByte_inner_of_lt s h, fun h => sourceByte_inner_of_ge s h⟩
  · rw [streamByte_source (by simp [hst]) hj, hst]
    exact ⟨fun h => sourceByte_outer_of_lt s h, fun h => sourceByte_outer_of_ge s h⟩
  · intro s key m ⟨hf, hb⟩ hi hvalid hkey hlen hrange hlength hm
    rw [hlen] at hrange
    have hstep := (step_of_decode hf hi (decode_encode .hmac)).trans
      (exec_hmac_of_idle (s := { s with inputs := [] }) hb hvalid hrange (hlen ▸ hlength))
    obtain ⟨v, hv, hH, hjob⟩ :=
      (startsPadded_inner (s := { s with inputs := [] }) hf rfl hkey hlen hm).busyRun_hmac rfl hkey
    obtain ⟨hbusy, hrun⟩ := hjob.after_step hstep
    have hcode : bytesBE v.H = hmac s.params.lengthMode key m := by rw [hH]; rfl
    refine ⟨hbusy, complete v, hrun, hcode, rfl, rfl, ?_⟩
    rw [hv]
    exact ⟨rfl, rfl, hvalid, rfl, rfl, rfl, rfl, rfl, rfl, hf, rfl⟩

/-! ### What the host cannot read -/

/-- The state `s` with the hidden registers of `h`: KBUF, IDIG, V, W and the sequencer's position (42_hmac_composer.md
R200). -/
def State.withHiddenOf (s h : State) : State :=
  withHidden s h.KBUF h.IDIG h.V h.W h.stage h.phase h.srcLen h.nblk h.blk h.t

/-- What a step ends in, with `f` applied to its next state if it has one. -/
def mapNext (f : State → State) : Result → Result
  | .next s => .next (f s)
  | .fault k => .fault k
  | .refused r => .refused r

section
variable (s h : State)

/-- No register word shows a hidden register (10_state.md R20). -/
theorem registerWord_withHiddenOf (off : Nat) : registerWord (s.withHiddenOf h) off = registerWord s off := rfl

/-- A register read neither shows nor writes a hidden register (10_state.md R20). -/
theorem hostRegRead_withHiddenOf (width off : Nat) :
    hostRegRead width off (s.withHiddenOf h) = mapNext (·.withHiddenOf h) (hostRegRead width off s) := by
  have hb : (s.withHiddenOf h).busy = s.busy := rfl
  unfold hostRegRead
  rw [registerWord_withHiddenOf, hb]
  by_cases hw : width = 32
  · cases registerWord s off with
    | none => simp [hw, mapNext]
    | some w => cases s.busy && isDigestOffset off <;> simp [hw, mapNext] <;> rfl
  · simp [hw, mapNext]

/-- A write of a register other than CMD neither reads nor writes a hidden register (10_state.md R28 to R32). -/
theorem writeRegister_withHiddenOf (off : Nat) (v : Word) :
    writeRegister off v (s.withHiddenOf h) = (writeRegister off v s).map (·.withHiddenOf h) := by
  unfold writeRegister
  rw [registerWord_withHiddenOf]
  split
  case h_5 => simp [Function.comp_def]
  all_goals rfl

/-- A register access other than a CMD write neither shows nor writes a hidden register (20_memory.md R68). -/
theorem hostRegWrite_withHiddenOf {width off : Nat} {v : Word}
    (hc : isCmdWrite (.host (.regWrite width off v)) = false) :
    hostRegWrite width off v (s.withHiddenOf h) = mapNext (·.withHiddenOf h) (hostRegWrite width off v s) := by
  unfold hostRegWrite
  rw [writeRegister_withHiddenOf]
  split_ifs with hw h0
  · rfl
  · obtain rfl : width = 32 := not_not.1 hw
    subst h0
    cases hc
  · cases writeRegister off v s <;> rfl

/-- A MEM read neither shows nor writes a hidden register (20_memory.md R63). -/
theorem hostMemRead_withHiddenOf (addr : Nat) :
    hostMemRead addr (s.withHiddenOf h) = mapNext (·.withHiddenOf h) (hostMemRead addr s) := by
  have hsize : (s.withHiddenOf h).memBytes = s.memBytes := rfl
  have hmem : (s.withHiddenOf h).mem = s.mem := rfl
  unfold hostMemRead
  rw [hsize, hmem]
  split_ifs
  · rfl
  · cases s.mem.read addr <;> rfl

/-- A MEM write neither reads nor writes a hidden register (20_memory.md R62). -/
theorem hostMemWrite_withHiddenOf (addr : Nat) (v : Byte) :
    hostMemWrite addr v (s.withHiddenOf h) = mapNext (·.withHiddenOf h) (hostMemWrite addr v s) := by
  have hsize : (s.withHiddenOf h).memBytes = s.memBytes := rfl
  have hbusy : (s.withHiddenOf h).busy = s.busy := rfl
  have hactive : inActiveRange (s.withHiddenOf h) addr = inActiveRange s addr := rfl
  unfold hostMemWrite
  rw [hsize, hbusy, hactive]
  split_ifs <;> rfl

/-- Reset gives every hidden register its own value (70_reset_and_hazards.md R250). -/
theorem hostReset_withHiddenOf : hostReset (s.withHiddenOf h) = hostReset s := rfl

/-- No host access but reset and a CMD write tells the hidden registers or writes them (42_hmac_composer.md R200). -/
theorem hostStep_withHiddenOf {a : HostAccess} (hr : a ≠ .reset) (hc : isCmdWrite (.host a) = false) :
    hostStep a (s.withHiddenOf h) = mapNext (·.withHiddenOf h) (hostStep a s) := by
  cases a with
  | regRead width off => exact hostRegRead_withHiddenOf s h width off
  | regWrite width off v => exact hostRegWrite_withHiddenOf s h hc
  | memRead addr => exact hostMemRead_withHiddenOf s h addr
  | memWrite addr v => exact hostMemWrite_withHiddenOf s h addr v
  | reset => exact absurd rfl hr

end

/-- Settles O60: reset overwrites the hidden registers, and every other access carries them along. -/
theorem hiddenRegistersCannotBeRead : Obligations.HiddenRegistersCannotBeRead := by
  intro s a k d v w st ph L n b i hc
  by_cases hr : a = .reset
  · subst hr
    exact ⟨fun t ht => ⟨t, ht, rfl, rfl, rfl, rfl⟩, nofun⟩
  · have hstep := hostStep_withHiddenOf s (withHidden s k d v w st ph L n b i) hr hc
    exact ⟨fun t ht => ⟨_, hstep.trans (congrArg _ ht), rfl, rfl, rfl, rfl⟩, fun f hf => hstep.trans (congrArg _ hf)⟩

end Sys2Proof.Machine

/-! Exceptions (60_exceptions.md): which check of a command fails first, what makes a step fault, and that no step is
refused; then the statements about them. -/

namespace Sys2Proof.Machine

open Sys2Proof.Config

/-! ### The first check that fails -/

/-- Only HMAC asks for a key (60_exceptions.md R224). -/
theorem keyMissing_of_ne_hmac {i : Instr} {s : State} (h : i ≠ .hmac) : keyMissing i s = false := by
  simp [keyMissing, h]

/-- With a key loaded no command misses one (60_exceptions.md R224). -/
theorem keyMissing_of_keyValid {i : Instr} {s : State} (h : s.keyValid = true) : keyMissing i s = false := by
  simp [keyMissing, h]

/-- HMAC without a key fails its first check (60_exceptions.md R224). -/
theorem check_hmac_noKey {s : State} (h : s.keyValid = false) : check .hmac s = some .noKey := by
  simp [check, keyMissing, h]

/-- A range past the end of MEM is reported when no key is missing (60_exceptions.md R225, R227). -/
theorem check_range {i : Instr} {s : State} {a l : Nat} (hkey : keyMissing i s = false)
    (ho : rangeOperand i s = some (a, l)) (h : s.memBytes < a + l) : check i s = some .range := by
  have hrange : rangeFails i s = true := by rw [rangeFails, ho]; exact decide_eq_true h
  simp [check, hkey, hrange]

/-- In mode REJECT a buffer of 2^32 bits or more is reported when no key is missing and the range lies in MEM
(60_exceptions.md R226, R227). -/
theorem check_length {i : Instr} {s : State} {a l L : Nat} (hkey : keyMissing i s = false)
    (ho : rangeOperand i s = some (a, l)) (h : a + l ≤ s.memBytes) (hp : paddedOperand i s = some L)
    (hm : s.params.lengthMode = .reject) (hL : 2 ^ 32 ≤ 8 * L) : check i s = some .length := by
  simp [check, hkey, rangeFails_eq_false ho h, lengthFails_of_reject hp hm hL]

/-- Acceptance clears ERR, and no accepted command writes it again (60_exceptions.md R228). -/
theorem AcceptEnd.err_eq_zero {i : Instr} {s t : State} (h : AcceptEnd s i t) : t.err = 0x0#4 := by
  rw [h.frame]; rfl

/-- A command that Check accepts leaves ERR = 0 (60_exceptions.md R228). -/
theorem exec_err_of_check_none {i : Instr} {s t : State} (hb : s.busy = false) (hc : check i s = none)
    (h : exec i s = .next t) : t.err = 0x0#4 := (acceptEnd_of_exec hb hc h).err_eq_zero

/-! ### The statements about rejections -/

/-- Settles O7: of what can become of a word taken while idle only a rejection leaves ERR not 0. -/
theorem rejectionWritesOnlyStatus : Obligations.RejectionWritesOnlyStatus := by
  refine ⟨fun c s t hb h herr => ?_, fun i s e hb hc => exec_reject hb hc,
    fun c s hb hd => hostWriteCmd_of_decode_none hb hd⟩
  obtain ⟨hb', -⟩ | ⟨-, e, rfl⟩ | ⟨-, i, -, -, ha⟩ := hostWriteCmd_outcomes h
  · cases hb.symm.trans hb'
  · rfl
  · exact absurd ha.err_eq_zero herr

/-- Settles O8: each clause is a check that fails first, or a command that passes all three. -/
theorem firstFailingCheckIsReported : Obligations.FirstFailingCheckIsReported := by
  intro s hb
  have hhash : keyMissing .hash s = false := keyMissing_of_ne_hmac nofun
  have hkeyload : keyMissing .keyload s = false := keyMissing_of_ne_hmac nofun
  refine ⟨fun hkey => exec_reject (c := .noKey) hb (check_hmac_noKey hkey),
    fun hkey hout => exec_reject (c := .range) hb ?_, fun hkey hin hm hlen => exec_reject (c := .length) hb ?_,
    fun hout => exec_reject (c := .range) hb ?_, fun hout => exec_reject (c := .range) hb ?_,
    fun hin hm hlen => exec_reject (c := .length) hb ?_, fun hout => exec_reject (c := .range) hb ?_,
    fun hin hm hlong hlen => exec_reject (c := .length) hb ?_, fun t h => ?_, fun t h hin => ?_,
    fun t h hin hlen => ?_, fun t h hin hlen => ?_, fun t h hkey hin hlen => ?_⟩
  · exact check_range (keyMissing_of_keyValid hkey) rfl hout
  · exact check_length (keyMissing_of_keyValid hkey) rfl hin rfl hm hlen
  · exact check_range (keyMissing_of_ne_hmac nofun) rfl hout
  · exact check_range hhash rfl hout
  · exact check_length hhash rfl hin rfl hm hlen
  · exact check_range hkeyload rfl hout
  · exact check_length hkeyload rfl hin (if_pos hlong) hm hlen
  · exact h.elim (exec_err_of_check_none hb (check_nop s)) (exec_err_of_check_none hb (check_init s))
  · exact exec_err_of_check_none hb (check_block hin) h
  · exact exec_err_of_check_none hb (check_hash hin hlen) h
  · exact exec_err_of_check_none hb (check_keyload hin hlen) h
  · exact exec_err_of_check_none hb (check_hmac hkey hin hlen) h

/-! ### The agent that steps, whatever its step ends in -/

/-- The sequencer's turn, with its entry taken off the schedule. -/
theorem step_of_nextInput_sequencer {s : State} (hf : s.fault = none) (hn : nextInput s = .sequencer) :
    step s = sequencerStep { s with inputs := s.inputs.tail } := by
  cases hi : s.inputs with
  | nil => rw [step_empty hf hi, List.tail_nil, ← hi]
  | cons x rest =>
    obtain rfl : x = .sequencer := by simpa [nextInput, hi] using hn
    exact step_turn hf hi

/-- The host's access, with its entry taken off the schedule. -/
theorem step_of_nextInput_host {s : State} {a : HostAccess} (hf : s.fault = none) (hn : nextInput s = .host a) :
    step s = hostStep a { s with inputs := s.inputs.tail } := by
  cases hi : s.inputs with
  | nil => simp [nextInput, hi] at hn
  | cons x rest =>
    obtain rfl : x = .host a := by simpa [nextInput, hi] using hn
    exact step_host hf hi

/-! ### What makes an access fault -/

/-- The causes of a fault of a MEM write (20_memory.md R62). -/
theorem hostMemWrite_fault {a : Nat} {v : Byte} {s : State} {k : Fault} (h : hostMemWrite a v s = .fault k) :
    (k = .hostAccess ∧ s.memBytes ≤ a) ∨ (k = .memWriteWhileBusy ∧ s.busy = true ∧ inActiveRange s a = true) := by
  unfold hostMemWrite at h
  split at h
  · cases h; exact .inl ⟨rfl, ‹_›⟩
  · split at h
    · cases h; exact .inr ⟨rfl, Bool.and_eq_true_iff.1 ‹_›⟩
    · cases h

/-- The causes of a fault of a MEM read (20_memory.md R63). -/
theorem hostMemRead_fault {a : Nat} {s : State} {k : Fault} (h : hostMemRead a s = .fault k) :
    (k = .hostAccess ∧ s.memBytes ≤ a) ∨ (k = .unwrittenRead ∧ s.mem.read a = none) := by
  unfold hostMemRead at h
  split at h
  · cases h; exact .inl ⟨rfl, ‹_›⟩
  · split at h
    · cases h
    · cases h; exact .inr ⟨rfl, ‹_›⟩

/-- A register read has one fault only (20_memory.md R68). -/
theorem hostRegRead_fault {width off : Nat} {s : State} {k : Fault} (h : hostRegRead width off s = .fault k) :
    k = .hostAccess := by
  unfold hostRegRead at h
  split at h
  · cases h; rfl
  · split at h
    · cases h; rfl
    · split at h <;> cases h

/-- The only word that faults is that of a short KEYLOAD of an unwritten byte, taken while idle (20_memory.md R64). -/
theorem hostWriteCmd_fault {c : Word} {s : State} {k : Fault} (h : hostWriteCmd c s = .fault k) :
    k = .unwrittenRead ∧ c = encode .keyload ∧ s.busy = false ∧ s.keyLen.toNat ≤ 64 ∧
      gather64 (shortKeyByte (acceptedAs .keyload s)) = none := by
  unfold hostWriteCmd at h
  split at h
  · obtain ⟨hk, rfl, hb, -, hlen, hg⟩ := exec_fault h
    exact ⟨hk, eq_encode_of_decode ‹_›, hb, hlen, hg⟩
  · cases hb : s.busy with
    | false => rw [illegalCommand_idle hb] at h; cases h
    | true => rw [illegalCommand_busy hb] at h; cases h

/-- A register write has one fault of its own; the other is that of the word it writes to CMD (20_memory.md R68). -/
theorem hostRegWrite_fault {width off : Nat} {v : Word} {s : State} {k : Fault} (h : hostRegWrite width off v s = .fault k) :
    k = .hostAccess ∨ (width = 32 ∧ off = 0x00 ∧ hostWriteCmd v s = .fault k) := by
  unfold hostRegWrite at h
  split at h
  · cases h; exact .inl rfl
  · rename_i hw
    split at h
    · exact .inr ⟨not_not.1 hw, ‹_›, h⟩
    · split at h <;> cases h
      exact .inl rfl

/-! ### Where an unwritten byte lies -/

/-- A byte of the padded buffer is missing only where the source misses it: the marker, the zeros and the length field are
there (40_digest_datapath.md R121). -/
theorem padByte_eq_none {mode : LengthMode} {L j : Nat} {src : Nat → Option Byte} (hj : j < paddedLen L)
    (h : padByte mode L j src = none) : j < L ∧ src j = none := by
  unfold padByte at h
  split at h
  · exact ⟨‹_›, h⟩
  · split at h
    · cases h
    · split at h
      · cases h
      · rw [List.getElem?_eq_none_iff, length_lenField] at h
        have := paddedLen_ge L
        omega

/-- Every stage but BLOCK has the blocks of its padded buffer (41_engine_commands.md R153). -/
theorem nblk_of_stageFits {s : State} (h : stageFits s) (hst : s.stage ≠ .block) : s.nblk = numBlocks s.srcLen := by
  unfold stageFits at h
  split at h
  · exact absurd ‹_› hst
  · obtain ⟨-, -, hn⟩ := h; exact hn
  · obtain ⟨-, -, hn, -⟩ := h; exact hn
  · obtain ⟨-, -, hn, -⟩ := h; exact hn
  · obtain ⟨-, -, hn, -⟩ := h; exact hn

/-- A block of a running job that is not read whole misses a byte of the stage's source (41_engine_commands.md R159). -/
theorem exists_sourceByte_eq_none {s : State} (hj : JobInv s) (h : currentBlock s = none) :
    ∃ k < s.srcLen, sourceByte s s.stage k = none := by
  obtain ⟨i, hi, hnone⟩ := gather64_eq_none_iff.1 h
  have hblk := hj.blkBelow
  by_cases hst : s.stage = .block
  · have hfits := hj.fits
    rw [stageFits, hst] at hfits
    obtain ⟨-, hlen, hnblk⟩ := hfits
    rw [streamByte_of_block hst] at hnone
    exact ⟨_, by omega, hnone⟩
  · rw [streamByte_of_ne_block hst] at hnone
    have hnblk := nblk_of_stageFits hj.fits hst
    exact ⟨_, padByte_eq_none (by rw [paddedLen, ← hnblk]; omega) hnone⟩

/-- A missing source byte of a running job is an unwritten byte of its active range: KBUF and IDIG miss none (20_memory.md
R62, R64). -/
theorem exists_unwritten_of_sourceByte {s : State} {k : Nat} (hfits : stageFits s) (hk : k < s.srcLen)
    (h : sourceByte s s.stage k = none) : ∃ a, inActiveRange s a = true ∧ s.mem.read a = none := by
  unfold stageFits at hfits
  cases hst : s.stage with
  | block | hash | keyhash =>
    rw [hst] at hfits h
    obtain ⟨hop, hlen, -⟩ := hfits
    exact ⟨_, inActiveRange_offset (by rw [activeRange, hop]) (hlen ▸ hk), h⟩
  | inner =>
    rw [hst] at hfits h
    obtain ⟨hop, hlen, -⟩ := hfits
    obtain hlt | hge := Nat.lt_or_ge k 64
    · rw [sourceByte_inner_of_lt s hlt] at h; cases h
    · rw [sourceByte_inner_of_ge s hge] at h
      exact ⟨_, inActiveRange_offset (len := s.lMsgLen) (by rw [activeRange, hop]) (by omega), h⟩
  | outer =>
    rw [hst] at hfits h
    obtain ⟨-, hlen, -⟩ := hfits
    obtain hlt | hge := Nat.lt_or_ge k 64
    · rw [sourceByte_outer_of_lt s hlt] at h; cases h
    · rw [sourceByte_outer_of_ge s hge, List.getElem?_eq_none_iff, length_bytesBE] at h
      omega

/-- LOAD misses a byte only where one of the active range is unwritten (20_memory.md R64). -/
theorem exists_unwritten_of_currentBlock {s : State} (hj : JobInv s) (h : currentBlock s = none) :
    ∃ a, inActiveRange s a = true ∧ s.mem.read a = none := by
  obtain ⟨k, hk, hnone⟩ := exists_sourceByte_eq_none hj h
  exact exists_unwritten_of_sourceByte hj.fits hk hnone

/-- A short KEYLOAD misses a byte only where one of the key's range is unwritten (42_hmac_composer.md R194). -/
theorem exists_unwritten_of_shortKeyByte {s : State} (h : gather64 (shortKeyByte s) = none) :
    ∃ a, s.lKeyAddr ≤ a ∧ a < s.lKeyAddr + s.lKeyLen ∧ s.mem.read a = none := by
  obtain ⟨j, -, hnone⟩ := gather64_eq_none_iff.1 h
  unfold shortKeyByte at hnone
  split at hnone
  · exact ⟨_, Nat.le_add_right _ j, Nat.add_lt_add_left ‹_› _, hnone⟩
  · cases hnone

/-! ### What makes a step fault -/

/-- The causes of each fault kind, by the entry of the schedule that raises it (60_exceptions.md R230). -/
inductive FaultCause (s : State) : Fault → Prop
  | regRead (w off : Nat) (hn : nextInput s = .host (.regRead w off)) (h : w ≠ 32 ∨ off % 4 ≠ 0 ∨ 0x40 ≤ off) :
      FaultCause s .hostAccess
  | regWrite (w off : Nat) (v : Word) (hn : nextInput s = .host (.regWrite w off v))
      (h : w ≠ 32 ∨ off % 4 ≠ 0 ∨ 0x40 ≤ off) : FaultCause s .hostAccess
  | memReadAbove (a : Nat) (hn : nextInput s = .host (.memRead a)) (h : s.memBytes ≤ a) : FaultCause s .hostAccess
  | memWriteAbove (a : Nat) (v : Byte) (hn : nextInput s = .host (.memWrite a v)) (h : s.memBytes ≤ a) :
      FaultCause s .hostAccess
  | memWriteActive (a : Nat) (v : Byte) (hn : nextInput s = .host (.memWrite a v)) (hb : s.busy = true)
      (h : inActiveRange s a = true) : FaultCause s .memWriteWhileBusy
  | load (hn : nextInput s = .sequencer) (hb : s.busy = true) (hp : s.phase = .load) (h : currentBlock s = none) :
      FaultCause s .unwrittenRead
  | shortKey (hn : nextInput s = .host (.regWrite 32 0x00 (encode .keyload))) (hb : s.busy = false)
      (hl : s.keyLen.toNat ≤ 64) (h : gather64 (shortKeyByte (acceptedAs .keyload s)) = none) :
      FaultCause s .unwrittenRead
  | memRead (a : Nat) (hn : nextInput s = .host (.memRead a)) (h : s.mem.read a = none) : FaultCause s .unwrittenRead

/-- A register read or write with a fault of its own lies outside the window (20_memory.md R68). -/
theorem malformed_of_registerWord {s : State} {w off : Nat} (h : w ≠ 32 ∨ registerWord s off = none) :
    w ≠ 32 ∨ off % 4 ≠ 0 ∨ 0x40 ≤ off := by
  rw [registerWord_eq_none_iff] at h
  omega

/-- A host access that faults has one of these causes. -/
theorem FaultCause.of_host {s : State} {a : HostAccess} {k : Fault} (hn : nextInput s = .host a)
    (h : hostStep a { s with inputs := s.inputs.tail } = .fault k) : FaultCause s k := by
  cases a with
  | regRead w off =>
    obtain rfl := hostRegRead_fault h
    exact .regRead w off hn (malformed_of_registerWord (hostRegRead_eq_fault_iff.1 h))
  | regWrite w off v =>
    obtain rfl | ⟨rfl, rfl, hcmd⟩ := hostRegWrite_fault h
    · exact .regWrite w off v hn (malformed_of_registerWord (hostRegWrite_eq_fault_iff.1 h))
    · obtain ⟨rfl, rfl, hb, hl, hg⟩ := hostWriteCmd_fault hcmd
      exact .shortKey hn hb hl hg
  | memRead a =>
    obtain ⟨rfl, ha⟩ | ⟨rfl, ha⟩ := hostMemRead_fault h
    · exact .memReadAbove a hn ha
    · exact .memRead a hn ha
  | memWrite a v =>
    obtain ⟨rfl, ha⟩ | ⟨rfl, hb, ha⟩ := hostMemWrite_fault h
    · exact .memWriteAbove a v hn ha
    · exact .memWriteActive a v hn hb ha
  | reset => cases h

/-- Every step that faults has one of these causes. -/
theorem faultCause_of_step {s : State} {k : Fault} (hf : s.fault = none) (h : step s = .fault k) : FaultCause s k := by
  cases hn : nextInput s with
  | sequencer =>
    rw [step_of_nextInput_sequencer hf hn] at h
    obtain ⟨hb, hp, hB, rfl⟩ := sequencerStep_eq_fault_iff.1 h
    exact .load hn hb hp hB
  | host a =>
    rw [step_of_nextInput_host hf hn] at h
    exact .of_host hn h

/-! ### No step is refused -/

/-- A command is refused only by its own rule. -/
theorem command_ne_refused {op : Instr} {body : State → Result} (hbody : ∀ u r, body u ≠ .refused r) (s : State)
    (r : Refusal) : command op s body ≠ .refused r := by
  cases hb : s.busy with
  | true => rw [command, takeCommand_busy hb]; nofun
  | false =>
    cases hc : check op s with
    | some e => rw [command_reject hb hc]; nofun
    | none => rw [command_accept hb hc]; exact hbody _ r

/-- A short KEYLOAD completes or faults (42_hmac_composer.md R194). -/
theorem loadShortKey_ne_refused (s : State) (r : Refusal) : loadShortKey s ≠ .refused r := by
  cases hg : gather64 (shortKeyByte s) with
  | some key => rw [loadShortKey_of_some hg]; nofun
  | none => rw [loadShortKey_of_none hg]; nofun

/-- Every command has a meaning. -/
theorem exec_ne_refused (i : Instr) (s : State) (r : Refusal) : exec i s ≠ .refused r := by
  cases i with
  | nop => rw [exec, execNop]; exact command_ne_refused (fun _ _ h => by cases h) s r
  | init => rw [exec, execInit]; exact command_ne_refused (fun _ _ h => by cases h) s r
  | block => rw [exec, execBlock]; exact command_ne_refused (fun _ _ h => by cases h) s r
  | hash => rw [exec, execHash]; exact command_ne_refused (fun _ _ h => by cases h) s r
  | hmac => rw [exec, execHmac]; exact command_ne_refused (fun _ _ h => by cases h) s r
  | keyload =>
    rw [exec, execKeyload]
    refine command_ne_refused (fun u r => ?_) s r
    split
    · exact loadShortKey_ne_refused _ r
    · nofun

/-- Every word written to CMD has a meaning (41_engine_commands.md R150, 60_exceptions.md R223). -/
theorem hostWriteCmd_ne_refused (c : Word) (s : State) (r : Refusal) : hostWriteCmd c s ≠ .refused r := by
  unfold hostWriteCmd
  split
  · exact exec_ne_refused _ s r
  · cases hb : s.busy with
    | true => rw [illegalCommand_busy hb]; nofun
    | false => rw [illegalCommand_idle hb]; nofun

/-- Every register read ends in a value or a fault (20_memory.md R68). -/
theorem hostRegRead_ne_refused (width off : Nat) (s : State) (r : Refusal) : hostRegRead width off s ≠ .refused r := by
  unfold hostRegRead
  split
  · nofun
  · split
    · nofun
    · split <;> nofun

/-- Every register write ends in a next state or a fault (20_memory.md R68). -/
theorem hostRegWrite_ne_refused (width off : Nat) (v : Word) (s : State) (r : Refusal) :
    hostRegWrite width off v s ≠ .refused r := by
  unfold hostRegWrite
  split
  · nofun
  · split
    · exact hostWriteCmd_ne_refused v s r
    · split <;> nofun

/-- Every MEM read ends in a byte or a fault (20_memory.md R63). -/
theorem hostMemRead_ne_refused (a : Nat) (s : State) (r : Refusal) : hostMemRead a s ≠ .refused r := by
  unfold hostMemRead
  split
  · nofun
  · split <;> nofun

/-- Every MEM write ends in a next state or a fault (20_memory.md R62). -/
theorem hostMemWrite_ne_refused (a : Nat) (v : Byte) (s : State) (r : Refusal) : hostMemWrite a v s ≠ .refused r := by
  unfold hostMemWrite
  split
  · nofun
  · split <;> nofun

/-- Every host access has a meaning (00_scope.md R14). -/
theorem hostStep_ne_refused (a : HostAccess) (s : State) (r : Refusal) : hostStep a s ≠ .refused r := by
  cases a with
  | regRead w off => exact hostRegRead_ne_refused w off s r
  | regWrite w off v => exact hostRegWrite_ne_refused w off v s r
  | memRead a => exact hostMemRead_ne_refused a s r
  | memWrite a v => exact hostMemWrite_ne_refused a v s r
  | reset => nofun

/-- Every step has a meaning. -/
theorem step_ne_refused (s : State) (r : Refusal) : step s ≠ .refused r := by
  cases hf : s.fault with
  | some k => rw [step_faulted hf]; nofun
  | none =>
    cases hn : nextInput s with
    | sequencer => rw [step_of_nextInput_sequencer hf hn]; exact sequencerStep_ne_refused _ r
    | host a => rw [step_of_nextInput_host hf hn]; exact hostStep_ne_refused a _ r

/-! ### The statements about faults -/

/-- Settles O49: the causes of a faulting step by its kind; the invariant places the byte that LOAD misses in the active
range. -/
theorem everyFaultHasItsCause : Obligations.EveryFaultHasItsCause := by
  refine ⟨fun s hf h => ?_, fun s hf h => ?_, fun s hf hinv h => ?_, step_ne_refused⟩
  · cases faultCause_of_step hf h with
    | regRead w off hn h => exact .inl ⟨w, off, hn, h⟩
    | regWrite w off v hn h => exact .inr (.inl ⟨w, off, v, hn, h⟩)
    | memReadAbove a hn h => exact .inr (.inr (.inl ⟨a, hn, h⟩))
    | memWriteAbove a v hn h => exact .inr (.inr (.inr ⟨a, v, hn, h⟩))
  · cases faultCause_of_step hf h with
    | memWriteActive a v hn hb h => exact ⟨a, v, hn, hb, h⟩
  · cases faultCause_of_step hf h with
    | load hn hb hp h => exact .inl ⟨hn, hb, hp, exists_unwritten_of_currentBlock (hinv.job hb) h⟩
    | shortKey hn hb hl h => exact .inr (.inl ⟨hn, hb, hl, exists_unwritten_of_shortKeyByte h⟩)
    | memRead a hn h => exact .inr (.inr ⟨a, hn, h⟩)

/-- Settles O48: `advance` marks the state before the fault, and a recorded fault is final whatever the schedule. -/
theorem aFaultIsFinal : Obligations.AFaultIsFinal := by
  refine ⟨fun s k h => ?_, fun s k l hf => step_faulted hf⟩
  rw [advance, h]
  rfl

end Sys2Proof.Machine

/-! Reset and hazards (70_reset_and_hazards.md): a command word while BUSY = 1, the state at power-on, and reset; then the
statements about them. -/

namespace Sys2Proof.Machine

open Sys2Proof.Config

/-- Any command word while BUSY = 1, of a command or of none, is dropped and sets OVERRUN (70_reset_and_hazards.md
R257). -/
theorem hostWriteCmd_of_busy {s : State} (hb : s.busy = true) (c : Word) :
    hostWriteCmd c s = .next { s with overrun := true } := by
  unfold hostWriteCmd
  cases decode c with
  | some i => exact exec_busy hb
  | none => exact illegalCommand_busy hb

/-- At power-on MEM has no written cell, ERR is NONE and no job runs (70_reset_and_hazards.md R251). -/
theorem Inv.powerOn (p : Params) : Inv (State.powerOn p) :=
  ⟨Memory.wf_nil, nofun, Nat.zero_le 4, nofun, nofun⟩

/-- With no fault recorded, reset is taken on the state with its entry taken off the schedule, also while BUSY = 1
(70_reset_and_hazards.md R250). -/
theorem step_reset {s : State} {rest : List Input} (hf : s.fault = none) (hi : s.inputs = .host .reset :: rest) :
    step s = .next (hostReset { s with inputs := rest }) :=
  step_host hf hi

/-- Settles O6: the write runs the word on the state with its entry taken off, where BUSY is still 1. -/
theorem commandWrittenWhileBusyIsDropped : Obligations.CommandWrittenWhileBusyIsDropped := by
  intro s c rest hf hb hi
  rw [step_cmdWrite hf hi]
  exact hostWriteCmd_of_busy (s := { s with inputs := rest }) hb c

/-- Settles O46: STATUS by `statusShowsItsFields`, the rest by the fields of the state at power-on. -/
theorem powerOnStateIsIdleAndUnwritten : Obligations.PowerOnStateIsIdleAndUnwritten := by
  intro p
  obtain ⟨-, -, -, hstatus⟩ := statusShowsItsFields
  exact ⟨rfl, rfl, rfl, rfl, rfl, hstatus p, fun _ _ => rfl, fun _ hj => Vector.getElem_replicate hj, Memory.read_nil, rfl⟩

/-- Settles O47: the state after reset is `hostReset`, whose fields are the values of 10_state.md R49; the fault record it
keeps is empty, since a faulted state takes no reset. -/
theorem resetRestoresTheResetValues : Obligations.ResetRestoresTheResetValues := by
  refine ⟨fun s rest hf hi => ⟨_, step_reset hf hi, ?_⟩, fun s rest k hf _ => step_faulted hf⟩
  simp [hf]

/-- Settles O51: the model's reset state is a state at power-on. -/
theorem powerOnMeetsTheInvariant : Obligations.PowerOnMeetsTheInvariant :=
  ⟨Inv.powerOn, Inv.powerOn Params.standard⟩

end Sys2Proof.Machine
